-- ==== Sys2Proof/Word.lean ====
section
/-! DEFINITION. The word types of the machine (00_scope.md R11 to R13): every quantity the spec treats as bits. -/

namespace Sys2Proof

/-- A byte (`u8`): a general register, a timer, a byte of memory, the immediate `kk`. -/
abbrev Byte := BitVec 8

/-- A 16-bit word (`u16`): an instruction word, `PC`, `I`, a stack entry, `ERR_INFO`. -/
abbrev Word := BitVec 16

/-- A 4-bit register index, the fields `x` and `y` of an instruction (R13, R92). -/
abbrev Reg := BitVec 4

/-- A 4-bit key code 0..15 (R32, R228). -/
abbrev Key := BitVec 4

/-- The 12-bit address field `nnn` of an instruction (R13, R92). -/
abbrev Addr := BitVec 12

end Sys2Proof
end

