-- ==== Sys2Proof/Machine/Flags.lean ====
section
/-! DEFINITION. Every flag computation (10_state.md R22, 41_alu.md R157 to R161, 43_display.md R202): the value is always 0x00
or 0x01, and each is taken from the exact operands. -/

namespace Sys2Proof.Machine

/-- A flag as the byte `VF` receives (R22): 0x01 or 0x00. -/
def flagByte (p : Bool) : Byte := if p then 0x01#8 else 0x00#8

/-- Carry out of `a + b` (R157): 1 if `a + b > 255`. -/
def carryFlag (a b : Byte) : Byte := flagByte (decide (a.toNat + b.toNat > 255))

/-- 1 - borrow of `a - b` (R158, R160): 1 if `a >= b`. -/
def noBorrowFlag (a b : Byte) : Byte := flagByte (decide (a.toNat ≥ b.toNat))

/-- The bit `SHR` shifts out (R159): bit 0 of the source. -/
def shrOutFlag (b : Byte) : Byte := flagByte (b.getLsbD 0)

/-- The bit `SHL` shifts out (R161): bit 7 of the source. -/
def shlOutFlag (b : Byte) : Byte := flagByte (b.getLsbD 7)

/-- The collision bit of `DRW` (R202). -/
def collisionFlag (coll : Bool) : Byte := flagByte coll

end Sys2Proof.Machine
end

