-- ==== Sys2Proof/Syntax.lean ====
section
/-! DEFINITION. The 34 instructions (30_encoding.md R105, opcode_table.json), one constructor per row of the table and
in the table's order, with typed operand fields (R92). -/

namespace Sys2Proof

/-- A decoded instruction: "a decoded instruction value with a kind tag and typed operand fields" (R17). -/
inductive Instr where
  /-- `CLS`, 00E0. -/
  | cls
  /-- `RET`, 00EE. -/
  | ret
  /-- `JP nnn`, 1nnn. -/
  | jp (nnn : Addr)
  /-- `CALL nnn`, 2nnn. -/
  | call (nnn : Addr)
  /-- `SE Vx, kk`, 3xkk. -/
  | seImm (x : Reg) (kk : Byte)
  /-- `SNE Vx, kk`, 4xkk. -/
  | sneImm (x : Reg) (kk : Byte)
  /-- `SE Vx, Vy`, 5xy0. -/
  | seReg (x y : Reg)
  /-- `LD Vx, kk`, 6xkk. -/
  | ldImm (x : Reg) (kk : Byte)
  /-- `ADD Vx, kk`, 7xkk. -/
  | addImm (x : Reg) (kk : Byte)
  /-- `LD Vx, Vy`, 8xy0. -/
  | ldReg (x y : Reg)
  /-- `OR Vx, Vy`, 8xy1. -/
  | orReg (x y : Reg)
  /-- `AND Vx, Vy`, 8xy2. -/
  | andReg (x y : Reg)
  /-- `XOR Vx, Vy`, 8xy3. -/
  | xorReg (x y : Reg)
  /-- `ADD Vx, Vy`, 8xy4. -/
  | addReg (x y : Reg)
  /-- `SUB Vx, Vy`, 8xy5. -/
  | sub (x y : Reg)
  /-- `SHR Vx, Vy`, 8xy6. -/
  | shr (x y : Reg)
  /-- `SUBN Vx, Vy`, 8xy7. -/
  | subn (x y : Reg)
  /-- `SHL Vx, Vy`, 8xyE. -/
  | shl (x y : Reg)
  /-- `SNE Vx, Vy`, 9xy0. -/
  | sneReg (x y : Reg)
  /-- `LD I, nnn`, Annn. -/
  | ldI (nnn : Addr)
  /-- `JP V0, nnn`, Bnnn. -/
  | jpV0 (nnn : Addr)
  /-- `RND Vx, kk`, Cxkk. -/
  | rnd (x : Reg) (kk : Byte)
  /-- `DRW Vx, Vy, n`, Dxyn; `n` is the count of sprite rows, 0..15 (checked by `WellFormed`). -/
  | drw (x y : Reg) (n : Nat)
  /-- `SKP Vx`, Ex9E. -/
  | skp (x : Reg)
  /-- `SKNP Vx`, ExA1. -/
  | sknp (x : Reg)
  /-- `LD Vx, DT`, Fx07. -/
  | ldVxDt (x : Reg)
  /-- `LD Vx, K`, Fx0A. -/
  | ldVxK (x : Reg)
  /-- `LD DT, Vx`, Fx15. -/
  | ldDtVx (x : Reg)
  /-- `LD ST, Vx`, Fx18. -/
  | ldStVx (x : Reg)
  /-- `ADD I, Vx`, Fx1E. -/
  | addI (x : Reg)
  /-- `LD F, Vx`, Fx29. -/
  | ldF (x : Reg)
  /-- `LD B, Vx`, Fx33. -/
  | ldB (x : Reg)
  /-- `LD [I], Vx`, Fx55. -/
  | storeRegs (x : Reg)
  /-- `LD Vx, [I]`, Fx65. -/
  | loadRegs (x : Reg)
  deriving DecidableEq, Repr

/-- Why bytes do not decode to an instruction. -/
inductive DecodeReject where
  /-- Fewer than the two bytes of an instruction word (R90). No fetch meets it: a fetch reads both bytes. -/
  | truncated
  /-- The word is in the illegal set of R102; the payload is the word, as in `DecodeError(w)` of R93. -/
  | illegal (w : Word)
  deriving DecidableEq, Repr

end Sys2Proof
end

