-- ==== Sys2Proof/WellFormed.lean ====
section
/-! DEFINITION. Which instruction terms an instruction word can carry (R92). The register, immediate and address fields have
exactly the width of their fields as their types, so the one check left is the count of sprite rows. -/

namespace Sys2Proof

/-- R92: "`n` is a 4-bit count 0..15 (the number of sprite rows)". -/
def rowCountOk (n : Nat) : Bool := decide (n < 16)

/-- An instruction is well-formed when every operand fits its field of the word (R92). -/
def WellFormed : Instr → Bool
  | .drw _ _ n => rowCountOk n
  | .cls | .ret => true
  | .jp _ | .call _ | .ldI _ | .jpV0 _ => true
  | .seImm _ _ | .sneImm _ _ | .ldImm _ _ | .addImm _ _ | .rnd _ _ => true
  | .seReg _ _ | .sneReg _ _ | .ldReg _ _ | .orReg _ _ | .andReg _ _ | .xorReg _ _ => true
  | .addReg _ _ | .sub _ _ | .shr _ _ | .subn _ _ | .shl _ _ => true
  | .skp _ | .sknp _ | .ldVxDt _ | .ldVxK _ | .ldDtVx _ | .ldStVx _ => true
  | .addI _ | .ldF _ | .ldB _ | .storeRegs _ | .loadRegs _ => true

end Sys2Proof
end

