-- ==== Sys2Proof/Decode.lean ====
section
/-! DEFINITION. The decoder (30_encoding.md R90 to R102): total on words and on bytes, strict, rejecting by name; the encoder,
from the same formats; the opcode table's match and mask of each row; and the host's `decodeTableWord`. -/

namespace Sys2Proof

/-! ### Instruction word fields (R13) -/

/-- `op = w[15:12]`, the family selector. -/
def fieldOp (w : Word) : BitVec 4 := w.extractLsb' 12 4
/-- `x = w[11:8]`. -/
def fieldX (w : Word) : Reg := w.extractLsb' 8 4
/-- `y = w[7:4]`. -/
def fieldY (w : Word) : Reg := w.extractLsb' 4 4
/-- `n = w[3:0]`. -/
def fieldN (w : Word) : BitVec 4 := w.extractLsb' 0 4
/-- `kk = w[7:0]`. -/
def fieldKK (w : Word) : Byte := w.extractLsb' 0 8
/-- `nnn = w[11:0]`. -/
def fieldNNN (w : Word) : Addr := w.extractLsb' 0 12

/-! ### The decoder, family by family -/

/-- Family 0 (R94): exactly two words are instructions. -/
def decode0 (w : Word) : Except DecodeReject Instr :=
  if w = 0x00E0#16 then .ok .cls
  else if w = 0x00EE#16 then .ok .ret
  else .error (.illegal w)

/-- Family 8 (R98), selected by `sub = w[3:0]`. -/
def decode8 (w : Word) : Except DecodeReject Instr :=
  let x := fieldX w
  let y := fieldY w
  let sub := fieldN w
  if sub = 0x0#4 then .ok (.ldReg x y)
  else if sub = 0x1#4 then .ok (.orReg x y)
  else if sub = 0x2#4 then .ok (.andReg x y)
  else if sub = 0x3#4 then .ok (.xorReg x y)
  else if sub = 0x4#4 then .ok (.addReg x y)
  else if sub = 0x5#4 then .ok (.sub x y)
  else if sub = 0x6#4 then .ok (.shr x y)
  else if sub = 0x7#4 then .ok (.subn x y)
  else if sub = 0xE#4 then .ok (.shl x y)
  else .error (.illegal w)

/-- Family E (R100), selected by `w[7:0]`. -/
def decodeE (w : Word) : Except DecodeReject Instr :=
  if fieldKK w = 0x9E#8 then .ok (.skp (fieldX w))
  else if fieldKK w = 0xA1#8 then .ok (.sknp (fieldX w))
  else .error (.illegal w)

/-- Family F (R101), selected by `w[7:0]`. -/
def decodeF (w : Word) : Except DecodeReject Instr :=
  let x := fieldX w
  let low := fieldKK w
  if low = 0x07#8 then .ok (.ldVxDt x)
  else if low = 0x0A#8 then .ok (.ldVxK x)
  else if low = 0x15#8 then .ok (.ldDtVx x)
  else if low = 0x18#8 then .ok (.ldStVx x)
  else if low = 0x1E#8 then .ok (.addI x)
  else if low = 0x29#8 then .ok (.ldF x)
  else if low = 0x33#8 then .ok (.ldB x)
  else if low = 0x55#8 then .ok (.storeRegs x)
  else if low = 0x65#8 then .ok (.loadRegs x)
  else .error (.illegal w)

/-- `Decode(w)` of R93: total, pure, selecting on `op` first and then on the sub-operation field. -/
def decode (w : Word) : Except DecodeReject Instr :=
  let op := fieldOp w
  if op = 0x0#4 then decode0 w
  else if op = 0x1#4 then .ok (.jp (fieldNNN w))
  else if op = 0x2#4 then .ok (.call (fieldNNN w))
  else if op = 0x3#4 then .ok (.seImm (fieldX w) (fieldKK w))
  else if op = 0x4#4 then .ok (.sneImm (fieldX w) (fieldKK w))
  else if op = 0x5#4 then
    if fieldN w = 0x0#4 then .ok (.seReg (fieldX w) (fieldY w)) else .error (.illegal w)
  else if op = 0x6#4 then .ok (.ldImm (fieldX w) (fieldKK w))
  else if op = 0x7#4 then .ok (.addImm (fieldX w) (fieldKK w))
  else if op = 0x8#4 then decode8 w
  else if op = 0x9#4 then
    if fieldN w = 0x0#4 then .ok (.sneReg (fieldX w) (fieldY w)) else .error (.illegal w)
  else if op = 0xA#4 then .ok (.ldI (fieldNNN w))
  else if op = 0xB#4 then .ok (.jpV0 (fieldNNN w))
  else if op = 0xC#4 then .ok (.rnd (fieldX w) (fieldKK w))
  else if op = 0xD#4 then .ok (.drw (fieldX w) (fieldY w) (fieldN w).toNat)
  else if op = 0xE#4 then decodeE w
  else decodeF w

/-- R65: the word at two consecutive bytes, the byte at the lower address the more significant: `hi ## lo`. -/
def wordOfBytes (hi lo : Byte) : Word := hi ++ lo

/-- Decoding from bytes: one instruction and the bytes after it, or a rejection by name (R90, R93). -/
def decodeBytes : List Byte → Except DecodeReject (Instr × List Byte)
  | hi :: lo :: rest =>
    match decode (wordOfBytes hi lo) with
    | .ok i => .ok (i, rest)
    | .error e => .error e
  | _ => .error .truncated

/-! ### The encoder, from the formats of R91 -/

/-- Format `A`: `op | nnn`. -/
def packA (op : BitVec 4) (nnn : Addr) : Word := op ++ nnn
/-- Format `XK`: `op | x | kk`; also format `X`, whose low byte is the fixed sub-operation code. -/
def packXK (op : BitVec 4) (x : Reg) (kk : Byte) : Word := op ++ x ++ kk
/-- Format `XY`: `op | x | y | sub`; also format `XYN`, whose low nibble is the count `n`. -/
def packXY (op : BitVec 4) (x y : Reg) (sub : BitVec 4) : Word := op ++ x ++ y ++ sub

/-- The word of a well-formed instruction (R94 to R101). An ill-formed row count is cut to its field's four bits. -/
def encode : Instr → Word
  | .cls => 0x00E0#16
  | .ret => 0x00EE#16
  | .jp nnn => packA 0x1#4 nnn
  | .call nnn => packA 0x2#4 nnn
  | .seImm x kk => packXK 0x3#4 x kk
  | .sneImm x kk => packXK 0x4#4 x kk
  | .seReg x y => packXY 0x5#4 x y 0x0#4
  | .ldImm x kk => packXK 0x6#4 x kk
  | .addImm x kk => packXK 0x7#4 x kk
  | .ldReg x y => packXY 0x8#4 x y 0x0#4
  | .orReg x y => packXY 0x8#4 x y 0x1#4
  | .andReg x y => packXY 0x8#4 x y 0x2#4
  | .xorReg x y => packXY 0x8#4 x y 0x3#4
  | .addReg x y => packXY 0x8#4 x y 0x4#4
  | .sub x y => packXY 0x8#4 x y 0x5#4
  | .shr x y => packXY 0x8#4 x y 0x6#4
  | .subn x y => packXY 0x8#4 x y 0x7#4
  | .shl x y => packXY 0x8#4 x y 0xE#4
  | .sneReg x y => packXY 0x9#4 x y 0x0#4
  | .ldI nnn => packA 0xA#4 nnn
  | .jpV0 nnn => packA 0xB#4 nnn
  | .rnd x kk => packXK 0xC#4 x kk
  | .drw x y n => packXY 0xD#4 x y (BitVec.ofNat 4 n)
  | .skp x => packXK 0xE#4 x 0x9E#8
  | .sknp x => packXK 0xE#4 x 0xA1#8
  | .ldVxDt x => packXK 0xF#4 x 0x07#8
  | .ldVxK x => packXK 0xF#4 x 0x0A#8
  | .ldDtVx x => packXK 0xF#4 x 0x15#8
  | .ldStVx x => packXK 0xF#4 x 0x18#8
  | .addI x => packXK 0xF#4 x 0x1E#8
  | .ldF x => packXK 0xF#4 x 0x29#8
  | .ldB x => packXK 0xF#4 x 0x33#8
  | .storeRegs x => packXK 0xF#4 x 0x55#8
  | .loadRegs x => packXK 0xF#4 x 0x65#8

/-- The two bytes of an instruction as memory holds them, the more significant first (R65, R90). -/
def bytesOfWord (w : Word) : List Byte := [w.extractLsb' 8 8, w.extractLsb' 0 8]

/-! ### The opcode table, as opcode_table.json gives it: a second transcription, to hold the decoder against -/

/-- The `match` and `mask` columns of the instruction's row. -/
def tableRow : Instr → Word × Word
  | .cls => (0x00E0#16, 0xFFFF#16)
  | .ret => (0x00EE#16, 0xFFFF#16)
  | .jp _ => (0x1000#16, 0xF000#16)
  | .call _ => (0x2000#16, 0xF000#16)
  | .seImm _ _ => (0x3000#16, 0xF000#16)
  | .sneImm _ _ => (0x4000#16, 0xF000#16)
  | .seReg _ _ => (0x5000#16, 0xF00F#16)
  | .ldImm _ _ => (0x6000#16, 0xF000#16)
  | .addImm _ _ => (0x7000#16, 0xF000#16)
  | .ldReg _ _ => (0x8000#16, 0xF00F#16)
  | .orReg _ _ => (0x8001#16, 0xF00F#16)
  | .andReg _ _ => (0x8002#16, 0xF00F#16)
  | .xorReg _ _ => (0x8003#16, 0xF00F#16)
  | .addReg _ _ => (0x8004#16, 0xF00F#16)
  | .sub _ _ => (0x8005#16, 0xF00F#16)
  | .shr _ _ => (0x8006#16, 0xF00F#16)
  | .subn _ _ => (0x8007#16, 0xF00F#16)
  | .shl _ _ => (0x800E#16, 0xF00F#16)
  | .sneReg _ _ => (0x9000#16, 0xF00F#16)
  | .ldI _ => (0xA000#16, 0xF000#16)
  | .jpV0 _ => (0xB000#16, 0xF000#16)
  | .rnd _ _ => (0xC000#16, 0xF000#16)
  | .drw _ _ _ => (0xD000#16, 0xF000#16)
  | .skp _ => (0xE09E#16, 0xF0FF#16)
  | .sknp _ => (0xE0A1#16, 0xF0FF#16)
  | .ldVxDt _ => (0xF007#16, 0xF0FF#16)
  | .ldVxK _ => (0xF00A#16, 0xF0FF#16)
  | .ldDtVx _ => (0xF015#16, 0xF0FF#16)
  | .ldStVx _ => (0xF018#16, 0xF0FF#16)
  | .addI _ => (0xF01E#16, 0xF0FF#16)
  | .ldF _ => (0xF029#16, 0xF0FF#16)
  | .ldB _ => (0xF033#16, 0xF0FF#16)
  | .storeRegs _ => (0xF055#16, 0xF0FF#16)
  | .loadRegs _ => (0xF065#16, 0xF0FF#16)

/-! ### The host's question: the instruction of a table word -/

/-- The word of a table row given as `nbits` bits: the bits above `nbits` are 0, and an instruction has 16 bits (R90). -/
def tableWord (nbits w : Nat) : Word := BitVec.ofNat 16 (w % 2 ^ min nbits 16)

/-- What the decoder reads from the two bytes of a table word, laid out as memory holds them. -/
def decodeTableWord (nbits w : Nat) : Option Instr :=
  match decodeBytes (bytesOfWord (tableWord nbits w)) with
  | .ok (i, _) => some i
  | .error _ => none

end Sys2Proof
end

