-- ==== Sys2Proof/Config.lean ====
section
/-! DEFINITION. What the spec leaves to the implementation or to the environment: the two straps (R8), the draws of
the random byte (R9), and one order the port binding does not give (R259). The opaque constants have no body, so no
proof can learn a value of one. -/

namespace Sys2Proof

/-- The two static configuration straps of R8: inputs, not state, that do not change during a run. -/
structure Straps where
  /-- `SHIFT_SRC_VY`: when true `SHR` and `SHL` shift `V[y]`, when false `V[x]`. -/
  shiftSrcVy : Bool
  /-- `STORE_ZEROES_REGS`: when true `LD [I], Vx` zeroes `V[0]..V[x]` after storing them. -/
  storeZeroesRegs : Bool
  deriving DecidableEq, Repr

/-- The defaults of R8: both straps false. -/
def Straps.default : Straps := ⟨false, false⟩

/-- FREE VALUE (notes/assumptions/3.md): the byte drawn at the `n`-th draw. R9: "No law constrains successive values
of `rnd`"; so nothing constrains this function. -/
opaque Config.rnd : Nat → Byte

/-- FREE VALUE (notes/assumptions/11.md): where in the order tick, key, step of R257 a `load_we` sampled together with
other requests is performed: before the tick (0), before the key (1), before the step (2) or after it (3). R259 gives
no place for it. -/
opaque Config.portLoadSlot : Fin 4

end Sys2Proof
end

