-- ==== Sys2Proof/Machine/State.lean ====
section
/-! DEFINITION. The complete state of the core (10_state.md R20) as plain data, the four fatal errors, and the state after
reset (R40). Beside the thirteen items of R20 it holds the inputs and parameters a step depends on and R38 calls "not
state": the straps, the font and the draw. -/

namespace Sys2Proof.Machine

/-- Why a step of the model stops without a next state. It has NO constructor: every way this machine stops is described by
the spec as a state (a fatal error latches `ERR` and the machine is HALTED, R285, R37), so nobody raises a fault. That is
neither safe nor unsafe: no behaviour is left out by it. -/
inductive Fault where
  deriving DecidableEq, Repr

/-- Why the model gives an instruction no meaning. -/
inductive Refusal where
  /-- Raised only by an arm of `exec` whose instruction has no meaning yet; safe. No arm of this model raises it. -/
  | notModelled (mnemonic : String)
  deriving DecidableEq, Repr

/-- The contents of the error latch `ERR` (R35); the values 5 to 7 of the 3-bit latch "never occur". -/
inductive Err where
  /-- Code 0: no error. -/
  | noError
  /-- Code 1 `DecodeError`. -/
  | decodeError
  /-- Code 2 `MemoryBoundsError`. -/
  | memoryBoundsError
  /-- Code 3 `StackOverflow`. -/
  | stackOverflow
  /-- Code 4 `StackUnderflow`. -/
  | stackUnderflow
  deriving DecidableEq, Repr

/-- A fatal error with its payload, the argument of `raise` (R15, R281). -/
inductive Fatal where
  /-- The word that failed to decode (R282). -/
  | decodeError (w : Word)
  /-- The lowest out-of-range address of the access (R283). -/
  | memoryBoundsError (a : Word)
  /-- The return address that could not be pushed (R284, R281). -/
  | stackOverflow (ret : Word)
  /-- A pop of the empty stack (R284). -/
  | stackUnderflow
  deriving DecidableEq, Repr

/-- `MEM`: the parameter `FONT`, whose bytes memory holds at 0x50..0x9F at reset, and the cells that differ from the reset
contents, by strictly rising address (`Memory.wf` in Memory.lean). -/
structure Memory where
  font : Vector Byte 80
  cells : List Host.Cell
  deriving DecidableEq, Repr

/-- `PX[c][r]`: 64 columns of 32 one-bit pixels (R29). -/
abbrev Display := Vector (Vector Bool 32) 64

/-- The state of the core. -/
structure State where
  /-- `MEM` (R30). -/
  mem : Memory
  /-- `V[0..15]` (R21); `VF` is `V[15]` (R22). -/
  v : Vector Byte 16
  /-- `I` (R23). -/
  i : Word
  /-- `PC` (R24). -/
  pc : Word
  /-- `STK[0..15]` (R26). -/
  stk : Vector Word 16
  /-- `SP`, the number of valid entries, 0..16 (R27). -/
  sp : Fin 17
  /-- `DT` (R28). -/
  dt : Byte
  /-- `ST` (R28). -/
  st : Byte
  /-- `PX` (R29). -/
  px : Display
  /-- `KEY[0..15]` (R32). -/
  key : Vector Bool 16
  /-- `LATCH` (R33). -/
  latch : Option Key
  /-- `WAIT` (R34). -/
  wait : Option Reg
  /-- `ERR` (R35). -/
  err : Err
  /-- `ERR_INFO` (R35). -/
  errInfo : Word
  /-- `STARTED` (R36). -/
  started : Bool
  /-- The straps, inputs of the core and not its state (R8, R38; notes/assumptions/2.md). -/
  cfg : Straps
  /-- The draw `rnd` of the step in progress, an input of `step` and not state (R9, R38; notes/assumptions/3.md). -/
  rnd : Byte
  /-- The model's own count of the draws taken (notes/assumptions/3.md). -/
  draws : Nat
  deriving DecidableEq, Repr

/-- The reset values of R40 under given straps, font and draw count. -/
def State.resetWith (cfg : Straps) (font : Vector Byte 80) (draws : Nat) : State where
  mem := { font := font, cells := [] }
  v := Vector.replicate 16 0x00#8
  i := 0x0000#16
  pc := 0x0200#16
  stk := Vector.replicate 16 0x0000#16
  sp := 0
  dt := 0x00#8
  st := 0x00#8
  px := Vector.replicate 64 (Vector.replicate 32 false)
  key := Vector.replicate 16 false
  latch := none
  wait := none
  err := .noError
  errInfo := 0x0000#16
  started := false
  cfg := cfg
  rnd := 0x00#8
  draws := draws

/-- The machine right after reset (R40, R320), with the default straps (R8) and the default font (R31). -/
def State.reset : State := State.resetWith Straps.default defaultFont 0

end Sys2Proof.Machine
end

