-- ==== Sys2Proof/Machine/Memory.lean ====
section
/-! DEFINITION. Memory: what an address reads as, reading and writing a byte, the canonical form of the cells, and byte
sequences at ascending addresses (20_memory.md R60 to R66). Bounds are checked before these by `checkAccess` (Ops.lean). -/

namespace Sys2Proof.Machine

/-- What an address with no cell reads as, the reset contents of R40: `FONT` at 0x50..0x9F, 0x00 elsewhere. -/
def Memory.unlisted (m : Memory) (a : Nat) : Byte :=
  if h : 0x50 ≤ a ∧ a < 0xA0 then m.font[a - 0x50]'(by omega) else 0x00#8

/-- The byte of the first cell at address `a`, if there is one. -/
def lookupCell : List Host.Cell → Nat → Option Byte
  | [], _ => none
  | (k, b) :: cs, a => if k = a then some b else lookupCell cs a

/-- Put the cell `(a, b)` at its place by address, in place of a cell at `a`. -/
def insertCell : List Host.Cell → Nat → Byte → List Host.Cell
  | [], a, b => [(a, b)]
  | (k, c) :: cs, a, b =>
    if a < k then (a, b) :: (k, c) :: cs
    else if a = k then (a, b) :: cs
    else (k, c) :: insertCell cs a b

/-- Remove every cell at address `a`. -/
def eraseCell : List Host.Cell → Nat → List Host.Cell
  | [], _ => []
  | (k, c) :: cs, a => if k = a then eraseCell cs a else (k, c) :: eraseCell cs a

/-- `MEM[a]` (R62): the cell at `a`, or the reset contents. -/
def Memory.read (m : Memory) (a : Nat) : Byte :=
  (lookupCell m.cells a).getD (m.unlisted a)

/-- `MEM[a] <- b` (R63), keeping the canonical form: a byte equal to the reset contents is not listed. -/
def Memory.write (m : Memory) (a : Nat) (b : Byte) : Memory :=
  { m with cells := if b = m.unlisted a then eraseCell m.cells a else insertCell m.cells a b }

/-- Write a sequence of bytes at ascending addresses from `base`, the first at the lowest (R66). -/
def Memory.writeList : Memory → Nat → List Byte → Memory
  | m, _, [] => m
  | m, base, b :: bs => Memory.writeList (m.write base b) (base + 1) bs

/-- The `count` bytes at ascending addresses from `base` (R66). -/
def Memory.readList (m : Memory) (base count : Nat) : List Byte :=
  (List.range count).map fun k => m.read (base + k)

/-- The canonical form: addresses strictly rising and inside 0..4095 (R60), no cell equal to the reset contents. -/
abbrev Memory.wf (m : Memory) : Prop :=
  m.cells.Pairwise (fun c d => c.1 < d.1) ∧ ∀ c ∈ m.cells, c.1 < 4096 ∧ c.2 ≠ m.unlisted c.1

end Sys2Proof.Machine
end

