-- ==== Sys2Proof/Machine/Ops.lean ====
section
/-! DEFINITION. The named operations over the state: reading and writing each register, taking a fatal error (60_exceptions.md
R285) and the one way out of it (R251), the checked memory accesses (R62, R63), the stack (R124, R125), the skip (R126), the
keypad (R225, R228) and the key-wait resolution (R227), and the fetch (R121). -/

namespace Sys2Proof.Machine

/-- What a step of the model answers. -/
abbrev Result := Host.Outcome State Fault Refusal

/-! ### Registers -/

/-- `V[x]` (R21). -/
def State.reg (s : State) (x : Reg) : Byte := s.v[x.toNat]'x.isLt

/-- `V[x] <- b` (R21). -/
def State.setReg (s : State) (x : Reg) (b : Byte) : State := { s with v := s.v.set x.toNat b x.isLt }

/-- The index of `VF` (R22). -/
def vfIndex : Reg := 15#4

/-- `V[x] <- r`, then `VF <- f` (R150): with `x` = 15 the flag is what `VF` holds afterwards. -/
def State.setRegThenFlag (s : State) (x : Reg) (r f : Byte) : State := (s.setReg x r).setReg vfIndex f

/-- `I <- w` (R23). -/
def State.setI (s : State) (w : Word) : State := { s with i := w }

/-- `PC <- w` (R24). -/
def State.setPc (s : State) (w : Word) : State := { s with pc := w }

/-- `DT <- b` (R28). -/
def State.setDt (s : State) (b : Byte) : State := { s with dt := b }

/-- `ST <- b` (R28). -/
def State.setSt (s : State) (b : Byte) : State := { s with st := b }

/-- The display after a write to it (R29). -/
def State.setPx (s : State) (p : Display) : State := { s with px := p }

/-- The memory after a write to it (R30). -/
def State.setMem (s : State) (m : Memory) : State := { s with mem := m }

/-- The stack after a push or a pop: its slots and its count (R26, R27). -/
def State.setStack (s : State) (slots : Vector Word 16) (count : Fin 17) : State := { s with stk := slots, sp := count }

/-- `WAIT <- w` (R34). -/
def State.setWait (s : State) (w : Option Reg) : State := { s with wait := w }

/-- `LATCH <- k` (R33). -/
def State.setLatch (s : State) (k : Option Key) : State := { s with latch := k }

/-! ### Taking a fatal error, and the way out -/

/-- The code a fatal error puts into `ERR` (R281). -/
def Fatal.err : Fatal → Err
  | .decodeError _ => .decodeError
  | .memoryBoundsError _ => .memoryBoundsError
  | .stackOverflow _ => .stackOverflow
  | .stackUnderflow => .stackUnderflow

/-- The payload a fatal error puts into `ERR_INFO` (R281). -/
def Fatal.info : Fatal → Word
  | .decodeError w => w
  | .memoryBoundsError a => a
  | .stackOverflow ret => ret
  | .stackUnderflow => 0x0000#16

/-- `raise E(info)` (R285): `ERR` and `ERR_INFO` are written and "every other state item keeps the value it had when the
raise happened". -/
def State.raise (s : State) (f : Fatal) : State := { s with err := f.err, errInfo := f.info }

/-- The end of an instruction whose one check may raise: all its writes, or none of them and the error (R16, R285). -/
def State.orRaise (s : State) : Except Fatal State → Result
  | .ok t => .next t
  | .error f => .next (s.raise f)

/-- `reset` (R251, R320): every state item at the value of R40; "the only way out of HALTED" (there is no return from an
error, R291). The straps, the font and the draw count are no state items and stay (R321, notes/assumptions/9.md). -/
def State.resetOp (s : State) : State := State.resetWith s.cfg s.mem.font s.draws

/-! ### Checked memory accesses -/

/-- The one bounds check of an access to `count` bytes from `base` (R63): the info is the lowest out-of-range address,
`max(base, 4096)` (R283). An access to no byte is not checked (R202, `n` = 0). -/
def checkAccess (base count : Nat) : Except Fatal Unit :=
  if 0 < count ∧ base + count > 4096 then .error (.memoryBoundsError (BitVec.ofNat 16 (max base 4096)))
  else .ok ()

/-- The bytes at `base .. base+count-1`, checked (R62). -/
def State.readBytes (s : State) (base count : Nat) : Except Fatal (List Byte) :=
  match checkAccess base count with
  | .error f => .error f
  | .ok _ => .ok (s.mem.readList base count)

/-- The state with the bytes written from `base`, checked before any byte is written (R63). -/
def State.writeBytes (s : State) (base : Nat) (bs : List Byte) : Except Fatal State :=
  match checkAccess base bs.length with
  | .error f => .error f
  | .ok _ => .ok (s.setMem (s.mem.writeList base bs))

/-! ### The stack -/

/-- `Push(w)` (R124). -/
def State.push (s : State) (w : Word) : Except Fatal State :=
  if h : s.sp.val < 16 then
    .ok (s.setStack (s.stk.set s.sp.val w h) ⟨s.sp.val + 1, Nat.succ_lt_succ h⟩)
  else .error (.stackOverflow w)

/-- `Pop()` (R125): the entry most recently pushed and the state without it. -/
def State.pop (s : State) : Except Fatal (Word × State) :=
  if s.sp.val = 0 then .error .stackUnderflow
  else
    .ok (s.stk[s.sp.val - 1]'(by have := s.sp.isLt; omega),
      s.setStack s.stk ⟨s.sp.val - 1, by have := s.sp.isLt; omega⟩)

/-! ### The skip -/

/-- `SkipIf(p)` (R126). -/
def State.skipIf (s : State) (p : Bool) : State := if p then s.setPc (s.pc + 2#16) else s

/-! ### The keypad -/

/-- `KeyDown(b)` (R225): the whole register value is tested, and 16 or more is "not pressed". -/
def State.keyDown (s : State) (b : Byte) : Bool :=
  if h : b.toNat < 16 then s.key[b.toNat] else false

/-- `KEY` with only key `k` down (R228). -/
def onlyKey (k : Key) : Vector Bool 16 := (Vector.replicate 16 false).set k.toNat true k.isLt

/-- The effect of a press on `KEY` and `LATCH` (R228). -/
def State.press (s : State) (k : Key) : State := { s with key := onlyKey k, latch := some k }

/-- Key-wait resolution with target `x` (R227): with a latched key `V[x]` receives its code and latch and marker clear,
otherwise nothing. -/
def State.resolveWait (s : State) (x : Reg) : State :=
  match s.latch with
  | some k => ((s.setReg x (k.setWidth 8)).setLatch none).setWait none
  | none => s

/-! ### The fetch and the start of a step -/

/-- Fetch without the advance of `PC` (R121): the big-endian word at `PC`, or `MemoryBoundsError(max(PC, 4096))`. -/
def State.fetchWord (s : State) : Except Fatal Word :=
  match checkAccess s.pc.toNat 2 with
  | .error f => .error f
  | .ok _ => .ok (wordOfBytes (s.mem.read s.pc.toNat) (s.mem.read (s.pc.toNat + 1)))

/-- `PC <- a + 2`, the fetch's advance (R121). -/
def State.advancePc (s : State) : State := s.setPc (s.pc + 2#16)

/-- `STARTED <- 1` (R120). -/
def State.start (s : State) : State := { s with started := true }

/-- The draw of this step is `rnd`, and one more draw is taken (R9, notes/assumptions/3.md). -/
def State.takeDraw (s : State) (rnd : Byte) : State := { s with rnd := rnd, draws := s.draws + 1 }

end Sys2Proof.Machine
end

