-- ==== Sys2Proof/Machine/Operands.lean ====
section
/-! DEFINITION. Operand assembly (30_encoding.md R92, 42_index_memory.md R186): the values and addresses instructions take. -/

namespace Sys2Proof.Machine

/-- `zext_16(nnn)` (R92). -/
def zextAddr (nnn : Addr) : Word := nnn.setWidth 16

/-- `zext_16` of a register value. -/
def zextByte (b : Byte) : Word := b.setWidth 16

/-- The target of `JP V0, nnn` (R134): `zext_16(nnn) + zext_16(V[0])`, at most 4350, so the 16-bit sum is exact. -/
def State.jumpV0Target (s : State) (nnn : Addr) : Word := zextAddr nnn + zextByte (s.reg 0#4)

/-- The source of a shift (R159, R161): `V[y]` if `SHIFT_SRC_VY` else `V[x]`. -/
def State.shiftSource (s : State) (x y : Reg) : Byte := if s.cfg.shiftSrcVy then s.reg y else s.reg x

/-- The base address of every data access (R186), an exact integer (R64). -/
def State.base (s : State) : Nat := s.i.toNat

/-- The sum of `ADD I, Vx` (R181): saturating at 0xFFFF. -/
def saturatingSum (i : Word) (b : Byte) : Word :=
  if i.toNat + b.toNat ≤ 0xFFFF then BitVec.ofNat 16 (i.toNat + b.toNat) else 0xFFFF#16

/-- The address of `LD F, Vx` (R182): `0x50 + (V[x] & 0x0F) * 5`. -/
def fontAddress (b : Byte) : Word := 0x50#16 + zextByte (b &&& 0x0F#8) * 5#16

/-- The hundreds, tens and ones digits of `LD B, Vx` (R183), the hundreds first. -/
def bcdDigits (b : Byte) : List Byte := [b / 100#8, b / 10#8 % 10#8, b % 10#8]

/-- `V[0] .. V[x]`, the registers of the block forms, ascending (R184, R185). -/
def State.regsUpTo (s : State) (x : Reg) : List Byte :=
  (List.range (x.toNat + 1)).map fun k => s.reg (BitVec.ofNat 4 k)

/-- `for k in 0..=x: V[k] <- f k`, ascending (R184, R185). -/
def State.setRegsUpTo (s : State) (x : Reg) (f : Nat → Byte) : State :=
  (List.range (x.toNat + 1)).foldl (fun t k => t.setReg (BitVec.ofNat 4 k) (f k)) s

end Sys2Proof.Machine
end

