-- ==== Sys2Proof/Machine/Alu.lean ====
section
/-! DEFINITION. Loads, immediate add, logic, add and subtract with flag, shifts and random (41_alu.md R150 to R162). -/

namespace Sys2Proof.Machine

/-- `LD Vx, kk` (R151). -/
def execLdImm (x : Reg) (kk : Byte) (s : State) : Result := .next (s.setReg x kk)

/-- `ADD Vx, kk` (R152): wraps modulo 256, `VF` is not written. -/
def execAddImm (x : Reg) (kk : Byte) (s : State) : Result := .next (s.setReg x (s.reg x + kk))

/-- `LD Vx, Vy` (R153). -/
def execLdReg (x y : Reg) (s : State) : Result := .next (s.setReg x (s.reg y))

/-- `OR Vx, Vy` (R154). -/
def execOrReg (x y : Reg) (s : State) : Result := .next (s.setReg x (s.reg x ||| s.reg y))

/-- `AND Vx, Vy` (R155). -/
def execAndReg (x y : Reg) (s : State) : Result := .next (s.setReg x (s.reg x &&& s.reg y))

/-- `XOR Vx, Vy` (R156). -/
def execXorReg (x y : Reg) (s : State) : Result := .next (s.setReg x (s.reg x ^^^ s.reg y))

/-- `ADD Vx, Vy` (R157). -/
def execAddReg (x y : Reg) (s : State) : Result :=
  .next (s.setRegThenFlag x (s.reg x + s.reg y) (carryFlag (s.reg x) (s.reg y)))

/-- `SUB Vx, Vy` (R158). -/
def execSub (x y : Reg) (s : State) : Result :=
  .next (s.setRegThenFlag x (s.reg x - s.reg y) (noBorrowFlag (s.reg x) (s.reg y)))

/-- `SUBN Vx, Vy` (R160): `V[y] - V[x]` into `V[x]`. -/
def execSubn (x y : Reg) (s : State) : Result :=
  .next (s.setRegThenFlag x (s.reg y - s.reg x) (noBorrowFlag (s.reg y) (s.reg x)))

/-- `SHR Vx, Vy` (R159): the source is chosen by the strap. -/
def execShr (x y : Reg) (s : State) : Result :=
  .next (s.setRegThenFlag x (s.shiftSource x y >>> 1) (shrOutFlag (s.shiftSource x y)))

/-- `SHL Vx, Vy` (R161): the source is chosen by the strap. -/
def execShl (x y : Reg) (s : State) : Result :=
  .next (s.setRegThenFlag x (s.shiftSource x y <<< 1) (shlOutFlag (s.shiftSource x y)))

/-- `RND Vx, kk` (R162): `V[x] <- rnd & kk`, `rnd` the draw of this step. -/
def execRnd (x : Reg) (kk : Byte) (s : State) : Result := .next (s.setReg x (s.rnd &&& kk))

end Sys2Proof.Machine
end

