-- ==== Sys2Proof/Machine/Control.lean ====
section
/-! DEFINITION. Return, jumps, call and the skips on register values (40_step_and_control.md R127 to R134). `PC` has already
been advanced by the fetch. -/

namespace Sys2Proof.Machine

/-- `RET` (R127): `t = Pop(); PC <- t`. -/
def execRet (s : State) : Result :=
  match s.pop with
  | .error f => .next (s.raise f)
  | .ok (t, s') => .next (s'.setPc t)

/-- `JP nnn` (R128). -/
def execJp (nnn : Addr) (s : State) : Result := .next (s.setPc (zextAddr nnn))

/-- `CALL nnn` (R129): `Push(PC); PC <- zext_16(nnn)`. -/
def execCall (nnn : Addr) (s : State) : Result :=
  match s.push s.pc with
  | .error f => .next (s.raise f)
  | .ok s' => .next (s'.setPc (zextAddr nnn))

/-- `JP V0, nnn` (R134). -/
def execJpV0 (nnn : Addr) (s : State) : Result := .next (s.setPc (s.jumpV0Target nnn))

/-- `SE Vx, kk` (R130). -/
def execSeImm (x : Reg) (kk : Byte) (s : State) : Result := .next (s.skipIf (s.reg x == kk))

/-- `SNE Vx, kk` (R131). -/
def execSneImm (x : Reg) (kk : Byte) (s : State) : Result := .next (s.skipIf (s.reg x != kk))

/-- `SE Vx, Vy` (R132). -/
def execSeReg (x y : Reg) (s : State) : Result := .next (s.skipIf (s.reg x == s.reg y))

/-- `SNE Vx, Vy` (R133). -/
def execSneReg (x y : Reg) (s : State) : Result := .next (s.skipIf (s.reg x != s.reg y))

end Sys2Proof.Machine
end

