-- ==== Sys2Proof/Machine/Display.lean ====
section
/-! DEFINITION. The display: its pixels, the sprite compositor, `CLS` and `DRW` (43_display.md R200 to R204). -/

namespace Sys2Proof.Machine

/-- `PX[c][r]` (R29). -/
def pixel (p : Display) (c : Fin 64) (r : Fin 32) : Bool := p[c][r]

/-- `PX[c][r] <- b` (R29). -/
def setPixel (p : Display) (c : Fin 64) (r : Fin 32) (b : Bool) : Display :=
  p.set c.val (p[c].set r.val b r.isLt) c.isLt

/-- The display with every pixel unset (R201). -/
def clearDisplay : Display := Vector.replicate 64 (Vector.replicate 32 false)

/-- One pass of the inner loop of `DrawSprite` (R203): sprite bit `bit` of `b` (bit 0 is the byte's bit 7) at the pixel
`((cx + bit) mod 64, (cy + row) mod 32)`; `acc` is the display and `coll` so far. -/
def drawBit (cx cy row : Nat) (b : Byte) (acc : Display × Bool) (bit : Nat) : Display × Bool :=
  let s := b.getLsbD (7 - bit)
  let c := Fin.ofNat 64 (cx + bit)
  let r := Fin.ofNat 32 (cy + row)
  let old := pixel acc.1 c r
  (setPixel acc.1 c r (xor old s), acc.2 || (old && s))

/-- One row of a sprite (R203), most significant bit first. -/
def drawRow (cx cy row : Nat) (b : Byte) (acc : Display × Bool) : Display × Bool :=
  (List.range 8).foldl (drawBit cx cy row b) acc

/-- The rows of a sprite from row `row` on (R203). -/
def drawRows (cx cy : Nat) : Nat → List Byte → Display × Bool → Display × Bool
  | _, [], acc => acc
  | row, b :: bs, acc => drawRows cx cy (row + 1) bs (drawRow cx cy row b acc)

/-- `DrawSprite(cx, cy, bytes)` (R203): the display afterwards and the collision. -/
def drawSprite (p : Display) (cx cy : Byte) (bytes : List Byte) : Display × Bool :=
  drawRows cx.toNat cy.toNat 0 bytes (p, false)

/-- `CLS` (R201). -/
def execCls (s : State) : Result := .next (s.setPx clearDisplay)

/-- `DRW Vx, Vy, n` (R202): the bytes are read and checked first, the coordinates are read before `VF` is written. -/
def execDrw (x y : Reg) (n : Nat) (s : State) : Result :=
  match s.readBytes s.base n with
  | .error f => .next (s.raise f)
  | .ok bytes =>
    let drawn := drawSprite s.px (s.reg x) (s.reg y) bytes
    .next ((s.setPx drawn.1).setReg vfIndex (collisionFlag drawn.2))

end Sys2Proof.Machine
end

