-- ==== Sys2Proof/Machine/IndexMemory.lean ====
section
/-! DEFINITION. The index register and the stores and loads through it (42_index_memory.md R180 to R185). -/

namespace Sys2Proof.Machine

/-- `LD I, nnn` (R180). -/
def execLdI (nnn : Addr) (s : State) : Result := .next (s.setI (zextAddr nnn))

/-- `ADD I, Vx` (R181). -/
def execAddI (x : Reg) (s : State) : Result := .next (s.setI (saturatingSum s.i (s.reg x)))

/-- `LD F, Vx` (R182). -/
def execLdF (x : Reg) (s : State) : Result := .next (s.setI (fontAddress (s.reg x)))

/-- `LD B, Vx` (R183). -/
def execLdB (x : Reg) (s : State) : Result := s.orRaise (s.writeBytes s.base (bcdDigits (s.reg x)))

/-- The zeroing of `V[0]..V[x]` after a block store when `STORE_ZEROES_REGS` (R184). -/
def State.zeroStored (s : State) (x : Reg) : State :=
  if s.cfg.storeZeroesRegs then s.setRegsUpTo x (fun _ => 0x00#8) else s

/-- `LD [I], Vx` (R184). -/
def execStoreRegs (x : Reg) (s : State) : Result :=
  match s.writeBytes s.base (s.regsUpTo x) with
  | .error f => .next (s.raise f)
  | .ok t => .next (t.zeroStored x)

/-- `LD Vx, [I]` (R185). -/
def execLoadRegs (x : Reg) (s : State) : Result :=
  match checkAccess s.base (x.toNat + 1) with
  | .error f => .next (s.raise f)
  | .ok _ => .next (s.setRegsUpTo x fun k => s.mem.read (s.base + k))

end Sys2Proof.Machine
end

