-- ==== Sys2Proof/Machine/TimersKeypad.lean ====
section
/-! DEFINITION. The timer and keypad instructions (44_timers_keypad.md R220 to R226). -/

namespace Sys2Proof.Machine

/-- `LD Vx, DT` (R220). -/
def execLdVxDt (x : Reg) (s : State) : Result := .next (s.setReg x s.dt)

/-- `LD DT, Vx` (R221). -/
def execLdDtVx (x : Reg) (s : State) : Result := .next (s.setDt (s.reg x))

/-- `LD ST, Vx` (R222). -/
def execLdStVx (x : Reg) (s : State) : Result := .next (s.setSt (s.reg x))

/-- `SKP Vx` (R223). -/
def execSkp (x : Reg) (s : State) : Result := .next (s.skipIf (s.keyDown (s.reg x)))

/-- `SKNP Vx` (R224). -/
def execSknp (x : Reg) (s : State) : Result := .next (s.skipIf (!s.keyDown (s.reg x)))

/-- `LD Vx, K` (R226): `WAIT <- some(x)` and nothing else; a later step resolves the wait (R227). -/
def execLdVxK (x : Reg) (s : State) : Result := .next (s.setWait (some x))

end Sys2Proof.Machine
end

