-- ==== Sys2Proof/Machine/Run.lean ====
section
/-! DEFINITION. The `step(rnd)` operation of the core: the four cases of R120 over fetch, decode and execute (40_step_and_control.md
R120 to R123), and placing an instruction where the next step fetches it. -/

namespace Sys2Proof.Machine

/-- Decode and execute (R122, R123): `s` is the state after the fetch advanced `PC`. -/
def execWord (w : Word) (s : State) : Result :=
  match decode w with
  | .error _ => .next (s.raise (.decodeError w))
  | .ok i => exec i s

/-- Fetch, decode and execute one instruction (R120 case c); a fetch that raises leaves `PC` (R121). -/
def runInstr (s : State) : Result :=
  match s.fetchWord with
  | .error f => .next (s.raise f)
  | .ok w => execWord w s.advancePc

/-- `step(rnd)` (R120): nothing when HALTED, the key-wait resolution when KEYWAIT, one instruction when RUN. -/
def stepOp (rnd : Byte) (s : State) : Result :=
  if s.err ≠ .noError then .next s
  else
    match s.wait with
    | some x => .next (s.start.resolveWait x)
    | none => runInstr (s.start.takeDraw rnd)

/-- `s` in state RUN with a `PC` a fetch can read from: only what keeps the next step from fetching is changed
(notes/assumptions/8.md). -/
def State.readyToFetch (s : State) : State :=
  { s with err := .noError, wait := none, pc := if s.pc.toNat ≤ 4094 then s.pc else 0x0200#16 }

/-- `s` with the word `w` at the address the next step fetches from (notes/assumptions/8.md). -/
def State.placeWord (s : State) (w : Word) : State :=
  s.readyToFetch.setMem (s.readyToFetch.mem.writeList s.readyToFetch.pc.toNat (bytesOfWord w))

end Sys2Proof.Machine
end

