-- ==== Sys2Proof/Machine/Step.lean ====
section
/-! DEFINITION. The machine's step: the operation `step(rnd)` of R120 with a fresh free draw (R9, notes/assumptions/3.md), and
the host's `withFetchWord`. -/

namespace Sys2Proof.Machine

/-- One `step` operation. The draw is the free value `Config.rnd` at the count of draws taken so far; a step that fetches
advances the count, so no two steps share a draw. -/
def step (s : State) : Host.Outcome State Fault Refusal := stepOp (Config.rnd s.draws) s

/-- `s` with the instruction of a table word stored where `step` fetches next (notes/assumptions/8.md). -/
def State.withFetchWord (s : State) (nbits w : Nat) : State := s.placeWord (tableWord nbits w)

end Sys2Proof.Machine
end

