-- ==== Sys2Proof/Machine/Driver.lean ====
section
/-! DEFINITION. What the driver does to the core: the five operations of 45_host_operations.md R250 to R253, sequences of
them, the logical cycle (R257), the outputs (R256) and the optional symbol front end (44_timers_keypad.md R236). -/

namespace Sys2Proof.Machine

/-- `load(bytes)` (R252): ignored when halted or started; an over-long program raises and writes nothing. -/
def loadOp (bytes : List Byte) (s : State) : State :=
  if s.err ≠ .noError ∨ s.started = true then s
  else if bytes.length > 3584 then s.raise (.memoryBoundsError 4096#16)
  else s.setMem (s.mem.writeList 512 bytes)

/-- One decrement of a timer, clamped at 0 (R231). -/
def decrement (b : Byte) : Byte := if b = 0#8 then 0#8 else b - 1#8

/-- `tick` (R231): both timers, and nothing else; ignored when halted. -/
def tickOp (s : State) : State :=
  if s.err ≠ .noError then s else (s.setDt (decrement s.dt)).setSt (decrement s.st)

/-- `key(k)` (R228): ignored when halted. -/
def keyOp (k : Key) (s : State) : State := if s.err ≠ .noError then s else s.press k

/-- An operation of the driver (R250). -/
inductive DriverOp where
  | reset
  | load (bytes : List Byte)
  | tick
  | key (k : Key)
  | step (rnd : Byte)
  deriving DecidableEq, Repr

/-- What the core does for one operation, in every state (R258). -/
def perform (op : DriverOp) (s : State) : Result :=
  match op with
  | .reset => .next s.resetOp
  | .load bytes => .next (loadOp bytes s)
  | .tick => .next (tickOp s)
  | .key k => .next (keyOp k s)
  | .step rnd => stepOp rnd s

/-- Any sequence of operations, in the driver's order (R250, R260). -/
def runOps : List DriverOp → State → Result
  | [], s => .next s
  | op :: ops, s =>
    match perform op s with
    | .next t => runOps ops t
    | .fault f => .fault f
    | .refused r => .refused r

/-- At most one key event: press or nothing (R18, R257). -/
def keyEvent (k : Option Key) (s : State) : State :=
  match k with
  | some k => keyOp k s
  | none => s

/-- One logical cycle (R257): tick, then at most one key event, then one step. -/
def logicalCycle (k : Option Key) (rnd : Byte) (s : State) : Result := stepOp rnd (keyEvent k (tickOp s))

/-! ### Outputs (R256), each without a side effect -/

/-- The outputs that are no grid. -/
structure Outputs where
  dt : Byte
  st : Byte
  keyWait : Bool
  keyWaitReg : Reg
  halted : Bool
  errCode : BitVec 3
  errInfo : Word
  deriving DecidableEq, Repr

/-- The 3-bit code of `ERR` (R35). -/
def Err.code : Err → BitVec 3
  | .noError => 0
  | .decodeError => 1
  | .memoryBoundsError => 2
  | .stackOverflow => 3
  | .stackUnderflow => 4

/-- The output values (R256): `key_wait_reg` is 0 when no wait is pending. -/
def State.outputs (s : State) : Outputs where
  dt := s.dt
  st := s.st
  keyWait := s.wait.isSome
  keyWaitReg := s.wait.getD 0#4
  halted := decide (s.err ≠ .noError)
  errCode := s.err.code
  errInfo := s.errInfo

/-- The output `disp(c, r)` (R206, R256). -/
def State.disp (s : State) (c : Fin 64) (r : Fin 32) : Bool := pixel s.px c r

/-! ### The optional symbol front end (R236) -/

/-- `KeyOfSymbol` (R236), symbols as ASCII bytes; every other symbol is unmapped. -/
def keyOfSymbol (b : Byte) : Option Key :=
  if b = 0x31#8 then some 0x1#4
  else if b = 0x32#8 then some 0x2#4
  else if b = 0x33#8 then some 0x3#4
  else if b = 0x34#8 then some 0xC#4
  else if b = 0x71#8 then some 0x4#4
  else if b = 0x77#8 then some 0x5#4
  else if b = 0x65#8 then some 0x6#4
  else if b = 0x72#8 then some 0xD#4
  else if b = 0x61#8 then some 0x7#4
  else if b = 0x73#8 then some 0x8#4
  else if b = 0x64#8 then some 0x9#4
  else if b = 0x66#8 then some 0xE#4
  else if b = 0x7A#8 then some 0xA#4
  else if b = 0x78#8 then some 0x0#4
  else if b = 0x63#8 then some 0xB#4
  else if b = 0x76#8 then some 0xF#4
  else none

/-- A symbol event: `key(k)` for a mapped symbol, nothing for an unmapped one (R236). -/
def symbolEvent (b : Byte) (s : State) : State := keyEvent (keyOfSymbol b) s

end Sys2Proof.Machine
end

