-- ==== Sys2Proof/Machine/Port.lean ====
section
/-! DEFINITION. The port binding of 45_host_operations.md R259, at the level of one sampling of its requests (`busy` = 0); how
long `busy` stays high is unspecified and not modelled (R331, notes/assumptions/10.md). -/

namespace Sys2Proof.Machine

/-- The sampled input pins of R259, less the clock. -/
structure PortIn where
  rst : Bool
  cfgShiftSrcVy : Bool
  cfgStoreZeroesRegs : Bool
  loadWe : Bool
  loadOff : BitVec 12
  loadData : Byte
  tickReq : Bool
  keyValid : Bool
  keyCode : Key
  stepReq : Bool
  rnd : Byte
  deriving DecidableEq, Repr

/-- The single-byte write of `load` (R259): unlike R252 it faults at its first out-of-range byte (90_conflicts.md C11). -/
def portLoad (off : BitVec 12) (data : Byte) (s : State) : State :=
  if s.err ≠ .noError ∨ s.started = true then s
  else if 512 + off.toNat > 4095 then s.raise (.memoryBoundsError (BitVec.ofNat 16 (512 + off.toNat)))
  else s.setMem (s.mem.write (512 + off.toNat) data)

/-- The load strobe at place `slot` of the order tick, key, step; R259 gives no place (notes/assumptions/11.md). -/
def portLoadAt (slot : Fin 4) (p : PortIn) (s : State) : State :=
  if p.loadWe = true ∧ Config.portLoadSlot = slot then portLoad p.loadOff p.loadData s else s

/-- The straps as sampled (R259, R321). -/
def State.withStraps (s : State) (p : PortIn) : State := { s with cfg := ⟨p.cfgShiftSrcVy, p.cfgStoreZeroesRegs⟩ }

/-- The requests before the step, in the order of R257. -/
def portBeforeStep (p : PortIn) (s : State) : State :=
  let a := portLoadAt 0 p s
  let b := if p.tickReq then tickOp a else a
  let c := portLoadAt 1 p b
  let d := if p.keyValid then keyOp p.keyCode c else c
  portLoadAt 2 p d

/-- One sampling of the requests (R259): `rst` overrides everything else; otherwise tick, key, step in that order. -/
def portCycle (p : PortIn) (s : State) : Result :=
  if p.rst then .next (s.withStraps p).resetOp
  else
    let before := portBeforeStep p (s.withStraps p)
    if p.stepReq then
      match stepOp p.rnd before with
      | .next t => .next (portLoadAt 3 p t)
      | .fault f => .fault f
      | .refused r => .refused r
    else .next (portLoadAt 3 p before)

end Sys2Proof.Machine
end

