-- ==== Sys2Proof/Safety.lean ====
section
/-! DEFINITION. The terms claims are stated in: the three states of R37, the items of state and what it means to keep them
(R43), and the machine's invariant. -/

namespace Sys2Proof.Machine

/-- HALTED (R37). -/
def Halted (s : State) : Prop := s.err ≠ .noError

/-- KEYWAIT with target `x` (R37). -/
def KeyWaiting (s : State) (x : Reg) : Prop := s.err = .noError ∧ s.wait = some x

/-- RUN (R37). -/
def Running (s : State) : Prop := s.err = .noError ∧ s.wait = none

/-- The items of R20, and last the inputs that are no state (R38). -/
inductive Item where
  | mem | v | i | pc | stk | sp | dt | st | px | key | latch | wait | err | errInfo | started | inputs
  deriving DecidableEq, Repr

/-- The item reads the same in `t` as in `s`; memory byte by byte, through the read of one byte. -/
def Item.Same (s t : State) : Item → Prop
  | .mem => ∀ a, t.mem.read a = s.mem.read a
  | .v => ∀ x, t.reg x = s.reg x
  | .i => t.i = s.i
  | .pc => t.pc = s.pc
  | .stk => t.stk = s.stk
  | .sp => t.sp = s.sp
  | .dt => t.dt = s.dt
  | .st => t.st = s.st
  | .px => ∀ c r, pixel t.px c r = pixel s.px c r
  | .key => t.key = s.key
  | .latch => t.latch = s.latch
  | .wait => t.wait = s.wait
  | .err => t.err = s.err
  | .errInfo => t.errInfo = s.errInfo
  | .started => t.started = s.started
  | .inputs => t.cfg = s.cfg ∧ t.mem.font = s.mem.font ∧ t.rnd = s.rnd ∧ t.draws = s.draws

/-- Every item outside `written` reads the same in `t` as in `s`. -/
def KeepsAllBut (written : List Item) (s t : State) : Prop := ∀ item, item ∉ written → item.Same s t

/-- Every general register outside `written` reads the same, and so does every item but the registers. -/
def OnlyRegs (written : List Reg) (s t : State) : Prop :=
  (∀ r, r ∉ written → t.reg r = s.reg r) ∧ KeepsAllBut [.v] s t

/-- Every byte of memory outside the `count` addresses from `base` reads the same. -/
def BytesKeptOutside (base count : Nat) (s t : State) : Prop :=
  ∀ a, a < base ∨ base + count ≤ a → t.mem.read a = s.mem.read a

/-- The state a raise of the error `e` with payload `info` leaves (R285): `ERR` and `ERR_INFO` written, nothing else. -/
def Raised (s : State) (e : Err) (info : Word) : State := { s with err := e, errInfo := info }

/-- The state in which a step that fetches does its work: `STARTED` is 1 and the draw is `rnd` (R120). -/
def StepBegun (rnd : Byte) (s : State) : State := { s with started := true, rnd := rnd, draws := s.draws + 1 }

/-- The step with draw `rnd` from `s` is a fetch that raises `MemoryBoundsError(max(PC, 4096))` (R121). -/
def FetchRaises (rnd : Byte) (s : State) : Prop :=
  stepOp rnd s = .next (Raised (StepBegun rnd s) .memoryBoundsError (BitVec.ofNat 16 (max s.pc.toNat 4096)))

/-- The big-endian word at `PC` (R65, R121). -/
def WordAtPc (s : State) : Word := s.mem.read s.pc.toNat ++ s.mem.read (s.pc.toNat + 1)

/-- The instruction's word is `w`, in both directions. -/
def EncodedAs (i : Instr) (w : Word) : Prop := encode i = w ∧ decode w = .ok i

/-- The illegal set of R102, digit by digit. -/
def IllegalWord (w : Word) : Prop :=
  let op := w.toNat / 4096
  let low := w.toNat % 256
  let n := w.toNat % 16
  (op = 0x0 ∧ w.toNat ≠ 0x00E0 ∧ w.toNat ≠ 0x00EE) ∨
  (op = 0x5 ∧ n ≠ 0) ∨
  (op = 0x9 ∧ n ≠ 0) ∨
  (op = 0x8 ∧ n ∈ [0x8, 0x9, 0xA, 0xB, 0xC, 0xD, 0xF]) ∨
  (op = 0xE ∧ low ∉ [0x9E, 0xA1]) ∨
  (op = 0xF ∧ low ∉ [0x07, 0x0A, 0x15, 0x18, 0x1E, 0x29, 0x33, 0x55, 0x65])

/-- A 1 bit of the sprite lies over the pixel `(c, r)` (R203): sprite bit `bit` of row `row`, where `bit` 0 is bit 7 of the
row's byte, lands at `((cx + bit) mod 64, (cy + row) mod 32)`. -/
def SpriteOne (bytes : Nat → Byte) (n cx cy : Nat) (c : Fin 64) (r : Fin 32) : Prop :=
  ∃ row bit, row < n ∧ bit < 8 ∧ (bytes row).getLsbD (7 - bit) = true ∧
    c.val = (cx + bit) % 64 ∧ r.val = (cy + row) % 32

/-- Every state item at the reset value of R40, memory byte by byte. -/
structure ResetValues (s : State) : Prop where
  pc : s.pc.toNat = 512
  font : ∀ k, (h : k < 80) → s.mem.read (0x50 + k) = s.mem.font[k]
  otherMemory : ∀ a, a < 0x50 ∨ 0x9F < a → s.mem.read a = 0#8
  registers : ∀ x, s.reg x = 0#8
  index : s.i = 0#16
  stack : s.sp = 0 ∧ ∀ j : Fin 16, s.stk[j] = 0#16
  timers : s.dt = 0#8 ∧ s.st = 0#8
  display : ∀ c r, pixel s.px c r = false
  keypad : (∀ j : Fin 16, s.key[j] = false) ∧ s.latch = none
  noWait : s.wait = none
  noError : s.err = .noError ∧ s.errInfo = 0#16
  notStarted : s.started = false

/-- The invariant of the machine: memory is canonical and inside the address space (R60); `PC` is at most 4350 (R25); every
valid stack entry is at most 4096 (R25); at most one key is down (R32); a latched key is down (R228); a pending wait is
never held by a halted machine and only by a started one (R37, R258); `ERR_INFO` is written only with an error (R35). -/
structure Inv (s : State) : Prop where
  memory : s.mem.wf
  pcRange : s.pc.toNat ≤ 4350
  stackRange : ∀ j : Fin 16, j.val < s.sp.val → s.stk[j].toNat ≤ 4096
  oneKey : ∀ j k : Fin 16, s.key[j] = true → s.key[k] = true → j = k
  latchDown : ∀ k : Key, s.latch = some k → s.key[k.toFin] = true
  waiting : s.wait ≠ none → s.err = .noError ∧ s.started = true
  infoClear : s.err = .noError → s.errInfo = 0#16

end Sys2Proof.Machine
end

