-- ==== Sys2Proof/Certificates/Slice0/Obligations.lean ====
section
/-! DEFINITION. The statements for the provers, in the terms of Safety.lean. `exec i s` is stated at the point the spec's
instruction rules speak of: `PC` has already been advanced by the fetch. `OnlyRegs` and `KeepsAllBut` are the frames.
`EncodedAs` states the encoding a rule gives; the bit patterns behind it are marked general knowledge in R94 to R101
(decision D8). `Raised` says that an instruction that raises has no other effect, the spec's decision D20. -/

open Sys2Proof Sys2Proof.Machine

/-! ### Encoding (30_encoding.md) -/

/-- R93 with R94 to R101: decoding the word of a well-formed instruction gives the instruction back. -/
def Obligations.DecodeInvertsEncode : Prop :=
  ∀ i, WellFormed i = true → decode (encode i) = .ok i

/-- R92, R93: a word that decodes is the word of the well-formed instruction it decodes to, so no bit of it is dropped. -/
def Obligations.EncodeInvertsDecode : Prop :=
  ∀ w i, decode w = .ok i → WellFormed i = true ∧ encode i = w

/-- R102: exactly the words of the illegal set are refused, by name and with the word; every other word is an instruction.
The strictness is the spec's own decision D9. -/
def Obligations.DecodeRejectsExactlyIllegalWords : Prop :=
  ∀ w, (IllegalWord w → decode w = .error (.illegal w)) ∧ (¬ IllegalWord w → ∃ i, decode w = .ok i)

/-- R93: "The patterns are disjoint". A word decodes only to an instruction whose row it matches as (`w` & `mask`) = `match`,
and every instruction whose row it matches has that same row; and every word that matches a row decodes to an
instruction of that row (T61: the table "gives the same legal set"). -/
def Obligations.DecodeFollowsTheOpcodeTable : Prop :=
  (∀ w i, decode w = .ok i →
    w &&& (tableRow i).2 = (tableRow i).1 ∧
    ∀ j, w &&& (tableRow j).2 = (tableRow j).1 → tableRow j = tableRow i) ∧
  ∀ w j, w &&& (tableRow j).2 = (tableRow j).1 → ∃ i, decode w = .ok i ∧ tableRow i = tableRow j

/-- Words the spec writes out, one per format and family (R151, R152, R127, R128, R134, R130, R157, R202, R223, R184). -/
def Obligations.SpecWordsDecode : Prop :=
  decode 0x6005#16 = .ok (.ldImm 0#4 5#8) ∧ decode 0x7003#16 = .ok (.addImm 0#4 3#8) ∧
  decode 0x00E0#16 = .ok .cls ∧ decode 0x00EE#16 = .ok .ret ∧ decode 0x1204#16 = .ok (.jp 0x204#12) ∧
  decode 0xB300#16 = .ok (.jpV0 0x300#12) ∧ decode 0x3100#16 = .ok (.seImm 1#4 0#8) ∧
  decode 0x8014#16 = .ok (.addReg 0#4 1#4) ∧ decode 0xD125#16 = .ok (.drw 1#4 2#4 5) ∧
  decode 0xE09E#16 = .ok (.skp 0#4) ∧ decode 0xF255#16 = .ok (.storeRegs 2#4)

/-! ### The step (40_step_and_control.md R120 to R123) -/

/-- R120 case c, R121, R123: in RUN, when the word at `PC` decodes to `i`, the step is `exec i` in the state with `STARTED` 1,
`PC` advanced by 2 and this step's draw installed. The draw is the free value of notes/assumptions/3.md. -/
def Obligations.StepRunsDecodedInstruction : Prop :=
  ∀ (s : State) (i : Instr), Running s → s.pc.toNat ≤ 4094 → decode (WordAtPc s) = .ok i →
    step s = exec i { StepBegun (Config.rnd s.draws) s with pc := s.pc + 2#16 } ∧
    (s.pc + 2#16).toNat = s.pc.toNat + 2 ∧
    ∀ rnd, stepOp rnd s = exec i { StepBegun rnd s with pc := s.pc + 2#16 }

/-- R121: a fetch from a `PC` above 4094 raises `MemoryBoundsError(max(PC, 4096))`; `PC` keeps its value, and nothing but the
latch changes (decision D20). -/
def Obligations.FetchAboveMemoryRaises : Prop :=
  ∀ (s : State) (rnd : Byte), Running s → 4094 < s.pc.toNat → FetchRaises rnd s

/-- R122, R282: an illegal word raises `DecodeError(w)`, with `PC` at the address of the word plus 2 (decision D20). -/
def Obligations.IllegalWordRaisesDecodeError : Prop :=
  ∀ (s : State) (rnd : Byte), Running s → s.pc.toNat ≤ 4094 → IllegalWord (WordAtPc s) →
    stepOp rnd s =
      .next (Raised { StepBegun rnd s with pc := s.pc + 2#16 } .decodeError (WordAtPc s))

/-- R258, R286: a halted core ignores every sequence of operations without a `reset` (decision D22). -/
def Obligations.HaltedIgnoresAllButReset : Prop :=
  ∀ (s : State) (ops : List DriverOp), Halted s → DriverOp.reset ∉ ops →
    runOps ops s = .next s ∧ step s = .next s

/-- R227: a step in KEYWAIT with a latched key writes the key's code to the waiting register and clears latch and marker;
with an empty latch it does nothing (but `STARTED` is 1). No instruction is fetched: `PC` does not change. -/
def Obligations.KeyWaitResolvesFromTheLatch : Prop :=
  ∀ (s : State) (x : Reg) (rnd : Byte), KeyWaiting s x →
    (∀ k, s.latch = some k → ∃ t, stepOp rnd s = .next t ∧ (t.reg x).toNat = k.toNat ∧
      t.latch = none ∧ t.wait = none ∧ t.started = true ∧
      (∀ r, r ≠ x → t.reg r = s.reg r) ∧ KeepsAllBut [.v, .latch, .wait, .started] s t) ∧
    (s.latch = none → stepOp rnd s = .next { s with started := true })

/-! ### Return, jumps, call, skips -/

/-- R127: `RET` pops the most recent entry into `PC`, unmodified, and what it pops above 4094 faults at the next fetch; with the
stack empty it raises `StackUnderflow(0)` and does nothing else (decision D20). -/
def Obligations.RetPopsIntoPc : Prop :=
  EncodedAs .ret 0x00EE#16 ∧
  (∀ (s : State) (top : Fin 16), s.sp.val = top.val + 1 →
    ∃ t, exec .ret s = .next t ∧ t.pc = s.stk[top] ∧ t.sp.val = top.val ∧ KeepsAllBut [.pc, .sp] s t ∧
      ∀ rnd, Running t → 4094 < t.pc.toNat → FetchRaises rnd t) ∧
  (∀ s : State, s.sp.val = 0 → exec .ret s = .next (Raised s .stackUnderflow 0#16))

/-- R128: `JP nnn` sets `PC` and touches nothing else; a target of 4095 makes the next fetch raise `MemoryBoundsError(4096)`;
`JP a` at `a` is a loop whose steps change no state item. The state after the faulting fetch rests on R121 and R285 (decision
D20); the loop asks for `STARTED` 1 (R120) and leaves the inputs of R38 aside (the draw, notes/assumptions/3.md). -/
def Obligations.JumpSetsPc : Prop :=
  ∀ (nnn : Addr) (s : State),
    EncodedAs (.jp nnn) (0x1#4 ++ nnn) ∧
    (∃ t, exec (.jp nnn) s = .next t ∧ t.pc.toNat = nnn.toNat ∧ KeepsAllBut [.pc] s t ∧
      ∀ rnd, Running t → nnn.toNat = 4095 →
        stepOp rnd t = .next (Raised (StepBegun rnd t) .memoryBoundsError 4096#16)) ∧
    (∀ rnd, Running s → s.started = true → s.pc.toNat = nnn.toNat → s.pc.toNat ≤ 4094 →
      WordAtPc s = 0x1#4 ++ nnn → ∃ t, stepOp rnd s = .next t ∧ KeepsAllBut [.inputs] s t)

/-- R129: `CALL nnn` pushes the `PC` after the fetch and jumps; with sixteen entries it raises `StackOverflow` with the return
address and nothing is pushed (decision D20). -/
def Obligations.CallPushesReturnAddress : Prop :=
  ∀ (nnn : Addr) (s : State),
    EncodedAs (.call nnn) (0x2#4 ++ nnn) ∧
    (∀ slot : Fin 16, s.sp.val = slot.val →
      ∃ t, exec (.call nnn) s = .next t ∧ t.pc.toNat = nnn.toNat ∧ t.sp.val = slot.val + 1 ∧
        t.stk[slot] = s.pc ∧ (∀ j : Fin 16, j ≠ slot → t.stk[j] = s.stk[j]) ∧
        KeepsAllBut [.pc, .sp, .stk] s t) ∧
    (s.sp.val = 16 → exec (.call nnn) s = .next (Raised s .stackOverflow s.pc))

/-- R134: `JP V0, nnn` jumps to the exact sum `nnn + V[0]`, not masked (decision D27); a target above 4094 makes the next
fetch raise `MemoryBoundsError(max(target, 4096))`. -/
def Obligations.JumpV0SetsPcToExactSum : Prop :=
  ∀ (nnn : Addr) (s : State),
    EncodedAs (.jpV0 nnn) (0xB#4 ++ nnn) ∧
    ∃ t, exec (.jpV0 nnn) s = .next t ∧ t.pc.toNat = nnn.toNat + (s.reg 0#4).toNat ∧ KeepsAllBut [.pc] s t ∧
      ∀ rnd, Running t → 4094 < t.pc.toNat → FetchRaises rnd t

/-- R130, R131: the skips on an immediate add 2 to `PC` exactly when their predicate holds, and exactly one of the two skips. -/
def Obligations.ImmediateSkips : Prop :=
  ∀ (x : Reg) (kk : Byte) (s : State),
    EncodedAs (.seImm x kk) (0x3#4 ++ x ++ kk) ∧ EncodedAs (.sneImm x kk) (0x4#4 ++ x ++ kk) ∧
    (∃ t, exec (.seImm x kk) s = .next t ∧
      t.pc = (if s.reg x = kk then s.pc + 2#16 else s.pc) ∧ KeepsAllBut [.pc] s t) ∧
    (∃ t, exec (.sneImm x kk) s = .next t ∧
      t.pc = (if s.reg x = kk then s.pc else s.pc + 2#16) ∧ KeepsAllBut [.pc] s t)

/-- R132, R133: the skips on two registers; with `x` = `y` the first always skips and the second never does. -/
def Obligations.RegisterSkips : Prop :=
  ∀ (x y : Reg) (s : State),
    EncodedAs (.seReg x y) (0x5#4 ++ x ++ y ++ 0x0#4) ∧ EncodedAs (.sneReg x y) (0x9#4 ++ x ++ y ++ 0x0#4) ∧
    (∃ t, exec (.seReg x y) s = .next t ∧
      t.pc = (if s.reg x = s.reg y then s.pc + 2#16 else s.pc) ∧ KeepsAllBut [.pc] s t) ∧
    (∃ t, exec (.sneReg x y) s = .next t ∧
      t.pc = (if s.reg x = s.reg y then s.pc else s.pc + 2#16) ∧ KeepsAllBut [.pc] s t)

/-- R223, R224 with R225: the skips on a key. The whole register value selects the key, and a value of 16 or more is "not
pressed": `SKP` never skips and `SKNP` always does. -/
def Obligations.KeySkips : Prop :=
  ∀ (x : Reg) (s : State),
    EncodedAs (.skp x) (0xE#4 ++ x ++ 0x9E#8) ∧ EncodedAs (.sknp x) (0xE#4 ++ x ++ 0xA1#8) ∧
    (∃ t, exec (.skp x) s = .next t ∧ KeepsAllBut [.pc] s t ∧
      (∀ k : Fin 16, (s.reg x).toNat = k.val → t.pc = if s.key[k] = true then s.pc + 2#16 else s.pc) ∧
      (16 ≤ (s.reg x).toNat → t.pc = s.pc)) ∧
    (∃ t, exec (.sknp x) s = .next t ∧ KeepsAllBut [.pc] s t ∧
      (∀ k : Fin 16, (s.reg x).toNat = k.val → t.pc = if s.key[k] = true then s.pc else s.pc + 2#16) ∧
      (16 ≤ (s.reg x).toNat → t.pc = s.pc + 2#16))

/-! ### Loads, arithmetic, logic, shifts, random (41_alu.md) -/

/-- R151, R153: `LD Vx, kk` and `LD Vx, Vy`. -/
def Obligations.LoadsIntoARegister : Prop :=
  ∀ (x y : Reg) (kk : Byte) (s : State),
    (EncodedAs (.ldImm x kk) (0x6#4 ++ x ++ kk) ∧
      ∃ t, exec (.ldImm x kk) s = .next t ∧ t.reg x = kk ∧ OnlyRegs [x] s t) ∧
    (EncodedAs (.ldReg x y) (0x8#4 ++ x ++ y ++ 0x0#4) ∧
      ∃ t, exec (.ldReg x y) s = .next t ∧ t.reg x = s.reg y ∧ OnlyRegs [x] s t)

/-- R152: `ADD Vx, kk` wraps modulo 256. That `VF` is not written is the spec's decision D15. -/
def Obligations.AddImmediateWraps : Prop :=
  ∀ (x : Reg) (kk : Byte) (s : State),
    EncodedAs (.addImm x kk) (0x7#4 ++ x ++ kk) ∧
    ∃ t, exec (.addImm x kk) s = .next t ∧
      (t.reg x).toNat = ((s.reg x).toNat + kk.toNat) % 256 ∧ OnlyRegs [x] s t

/-- R154, R155, R156: the logic instructions bit by bit. That `VF` is left alone is the spec's decision D15. -/
def Obligations.BitwiseLogic : Prop :=
  ∀ (x y : Reg) (s : State),
    (EncodedAs (.orReg x y) (0x8#4 ++ x ++ y ++ 0x1#4) ∧
      ∃ t, exec (.orReg x y) s = .next t ∧
        (∀ j, (t.reg x).getLsbD j = ((s.reg x).getLsbD j || (s.reg y).getLsbD j)) ∧ OnlyRegs [x] s t) ∧
    (EncodedAs (.andReg x y) (0x8#4 ++ x ++ y ++ 0x2#4) ∧
      ∃ t, exec (.andReg x y) s = .next t ∧
        (∀ j, (t.reg x).getLsbD j = ((s.reg x).getLsbD j && (s.reg y).getLsbD j)) ∧ OnlyRegs [x] s t) ∧
    (EncodedAs (.xorReg x y) (0x8#4 ++ x ++ y ++ 0x3#4) ∧
      ∃ t, exec (.xorReg x y) s = .next t ∧
        (∀ j, (t.reg x).getLsbD j = xor ((s.reg x).getLsbD j) ((s.reg y).getLsbD j)) ∧ OnlyRegs [x] s t)

/-- R157: `ADD Vx, Vy` gives the sum modulo 256 and the carry in `VF`; with `x` = 15 `VF` is the carry and the sum is lost
(the spec's decision D14). -/
def Obligations.AddRegisterSetsSumAndCarry : Prop :=
  ∀ (x y : Reg) (s : State),
    EncodedAs (.addReg x y) (0x8#4 ++ x ++ y ++ 0x4#4) ∧
    ∃ t, exec (.addReg x y) s = .next t ∧
      (x ≠ 15#4 → (t.reg x).toNat = ((s.reg x).toNat + (s.reg y).toNat) % 256) ∧
      (t.reg 15#4).toNat = (if (s.reg x).toNat + (s.reg y).toNat > 255 then 1 else 0) ∧
      OnlyRegs [x, 15#4] s t

/-- R158: `SUB Vx, Vy` gives `a - b` modulo 256 and 1 - borrow in `VF`; with `x` = 15 `VF` is the flag (the spec's
decision D14). -/
def Obligations.SubSetsDifferenceAndNoBorrow : Prop :=
  ∀ (x y : Reg) (s : State),
    EncodedAs (.sub x y) (0x8#4 ++ x ++ y ++ 0x5#4) ∧
    ∃ t, exec (.sub x y) s = .next t ∧
      (x ≠ 15#4 → (t.reg x).toNat = (256 + (s.reg x).toNat - (s.reg y).toNat) % 256) ∧
      (t.reg 15#4).toNat = (if (s.reg x).toNat ≥ (s.reg y).toNat then 1 else 0) ∧
      OnlyRegs [x, 15#4] s t

/-- R160: `SUBN Vx, Vy` gives `b - a` modulo 256 and 1 - borrow of that subtraction in `VF`; with `x` = 15 `VF` is the flag. That
`SUBN` computes `V[y] - V[x]` is marked general knowledge in R160 (93_implementation_defined.md G4); `x` = 15 is decision D14. -/
def Obligations.SubnSetsDifferenceAndNoBorrow : Prop :=
  ∀ (x y : Reg) (s : State),
    EncodedAs (.subn x y) (0x8#4 ++ x ++ y ++ 0x7#4) ∧
    ∃ t, exec (.subn x y) s = .next t ∧
      (x ≠ 15#4 → (t.reg x).toNat = (256 + (s.reg y).toNat - (s.reg x).toNat) % 256) ∧
      (t.reg 15#4).toNat = (if (s.reg y).toNat ≥ (s.reg x).toNat then 1 else 0) ∧
      OnlyRegs [x, 15#4] s t

/-- R159, R161: the shifts by one of the source the strap selects (decision D16): `SHR` halves it and puts its bit 0 in `VF`,
`SHL` doubles it modulo 256 and puts its bit 7 in `VF`; with `x` = 15 `VF` is the bit shifted out (decision D14). -/
def Obligations.ShiftsByOne : Prop :=
  ∀ (x y : Reg) (s : State) (b : Byte), b = (if s.cfg.shiftSrcVy then s.reg y else s.reg x) →
    (EncodedAs (.shr x y) (0x8#4 ++ x ++ y ++ 0x6#4) ∧
      ∃ t, exec (.shr x y) s = .next t ∧ (x ≠ 15#4 → (t.reg x).toNat = b.toNat / 2) ∧
        (t.reg 15#4).toNat = b.toNat % 2 ∧ OnlyRegs [x, 15#4] s t) ∧
    (EncodedAs (.shl x y) (0x8#4 ++ x ++ y ++ 0xE#4) ∧
      ∃ t, exec (.shl x y) s = .next t ∧ (x ≠ 15#4 → (t.reg x).toNat = 2 * b.toNat % 256) ∧
        (t.reg 15#4).toNat = b.toNat / 128 ∧ OnlyRegs [x, 15#4] s t)

/-- R162: `RND Vx, kk` is the draw of this step masked with `kk`, for every draw (decision D18, notes/assumptions/3.md). -/
def Obligations.RandomIsMaskedDraw : Prop :=
  ∀ (x : Reg) (kk : Byte) (s : State),
    EncodedAs (.rnd x kk) (0xC#4 ++ x ++ kk) ∧
    ∃ t, exec (.rnd x kk) s = .next t ∧
      (∀ j, (t.reg x).getLsbD j = (s.rnd.getLsbD j && kk.getLsbD j)) ∧ OnlyRegs [x] s t

/-! ### The index register and memory (42_index_memory.md) -/

/-- R180: `LD I, nnn`. -/
def Obligations.LoadIndex : Prop :=
  ∀ (nnn : Addr) (s : State),
    EncodedAs (.ldI nnn) (0xA#4 ++ nnn) ∧
    ∃ t, exec (.ldI nnn) s = .next t ∧ t.i.toNat = nnn.toNat ∧ KeepsAllBut [.i] s t

/-- R181: `ADD I, Vx` saturates at 0xFFFF (decision D13) and writes no flag (decision D15). -/
def Obligations.AddIndexSaturates : Prop :=
  ∀ (x : Reg) (s : State),
    EncodedAs (.addI x) (0xF#4 ++ x ++ 0x1E#8) ∧
    ∃ t, exec (.addI x) s = .next t ∧ t.i.toNat = min (s.i.toNat + (s.reg x).toNat) 0xFFFF ∧ KeepsAllBut [.i] s t

/-- R182: `LD F, Vx` is `0x50 + (V[x] & 0x0F) * 5`, and reads no memory. -/
def Obligations.FontAddressOfLowNibble : Prop :=
  ∀ (x : Reg) (s : State),
    EncodedAs (.ldF x) (0xF#4 ++ x ++ 0x29#8) ∧
    ∃ t, exec (.ldF x) s = .next t ∧ t.i.toNat = 0x50 + (s.reg x).toNat % 16 * 5 ∧ KeepsAllBut [.i] s t

/-- R183: `LD B, Vx` writes the three decimal digits at `I`, or raises `MemoryBoundsError(max(I, 4096))` and writes nothing
(decision D20). -/
def Obligations.BcdStoresThreeDigits : Prop :=
  ∀ (x : Reg) (s : State),
    EncodedAs (.ldB x) (0xF#4 ++ x ++ 0x33#8) ∧
    (s.i.toNat + 2 ≤ 4095 →
      ∃ t, exec (.ldB x) s = .next t ∧
        (t.mem.read s.i.toNat).toNat = (s.reg x).toNat / 100 ∧
        (t.mem.read (s.i.toNat + 1)).toNat = (s.reg x).toNat / 10 % 10 ∧
        (t.mem.read (s.i.toNat + 2)).toNat = (s.reg x).toNat % 10 ∧
        BytesKeptOutside s.i.toNat 3 s t ∧ KeepsAllBut [.mem] s t) ∧
    (s.i.toNat + 2 > 4095 →
      exec (.ldB x) s = .next (Raised s .memoryBoundsError (BitVec.ofNat 16 (max s.i.toNat 4096))))

/-- R184: `LD [I], Vx` stores `V[0]..V[x]` at ascending addresses from `I`, zeroes them afterwards when the strap says so, leaves
`I` alone (decision D17); past the end of memory it raises and does none of it. -/
def Obligations.BlockStore : Prop :=
  ∀ (x : Reg) (s : State),
    EncodedAs (.storeRegs x) (0xF#4 ++ x ++ 0x55#8) ∧
    (s.i.toNat + x.toNat ≤ 4095 →
      ∃ t, exec (.storeRegs x) s = .next t ∧
        (∀ r : Reg, r.toNat ≤ x.toNat → t.mem.read (s.i.toNat + r.toNat) = s.reg r) ∧
        BytesKeptOutside s.i.toNat (x.toNat + 1) s t ∧
        (∀ r : Reg, t.reg r =
          if s.cfg.storeZeroesRegs = true ∧ r.toNat ≤ x.toNat then 0#8 else s.reg r) ∧
        KeepsAllBut [.mem, .v] s t) ∧
    (s.i.toNat + x.toNat > 4095 →
      exec (.storeRegs x) s = .next (Raised s .memoryBoundsError (BitVec.ofNat 16 (max s.i.toNat 4096))))

/-- R185: `LD Vx, [I]` loads `V[0]..V[x]` from ascending addresses from `I`, leaves `I` alone (decision D17) and all of memory;
past the end of memory it raises and writes no register. -/
def Obligations.BlockLoad : Prop :=
  ∀ (x : Reg) (s : State),
    EncodedAs (.loadRegs x) (0xF#4 ++ x ++ 0x65#8) ∧
    (s.i.toNat + x.toNat ≤ 4095 →
      ∃ t, exec (.loadRegs x) s = .next t ∧
        (∀ r : Reg, t.reg r =
          if r.toNat ≤ x.toNat then s.mem.read (s.i.toNat + r.toNat) else s.reg r) ∧
        KeepsAllBut [.v] s t) ∧
    (s.i.toNat + x.toNat > 4095 →
      exec (.loadRegs x) s = .next (Raised s .memoryBoundsError (BitVec.ofNat 16 (max s.i.toNat 4096))))

/-! ### The display (43_display.md) -/

/-- R201: `CLS` unsets all 2048 pixels and touches nothing else. -/
def Obligations.ClearUnsetsEveryPixel : Prop :=
  EncodedAs .cls 0x00E0#16 ∧
  ∀ s : State, ∃ t, exec .cls s = .next t ∧ (∀ c r, pixel t.px c r = false) ∧ KeepsAllBut [.px] s t

/-- R202 with R203: `DRW Vx, Vy, n` toggles exactly the pixels under a 1 bit of the sprite read from `I`, wrapping per pixel, and
`VF` says whether one of them was set; past the end of memory it raises and does none of it. The `n` = 0 case, the check before
any pixel changes and `I` unmodified are the spec's decision D19. -/
def Obligations.DrawTogglesSpriteAndReportsCollision : Prop :=
  ∀ (x y : Reg) (n : Nat) (s : State), n ≤ 15 →
    EncodedAs (.drw x y n) (0xD#4 ++ x ++ y ++ BitVec.ofNat 4 n) ∧
    (n = 0 ∨ s.i.toNat + n - 1 ≤ 4095 →
      ∃ t, exec (.drw x y n) s = .next t ∧
        (∀ one : Fin 64 → Fin 32 → Prop,
          one = SpriteOne (fun row => s.mem.read (s.i.toNat + row)) n (s.reg x).toNat (s.reg y).toNat →
          (∀ c r, one c r → pixel t.px c r = !pixel s.px c r) ∧
          (∀ c r, ¬ one c r → pixel t.px c r = pixel s.px c r) ∧
          ((∃ c r, one c r ∧ pixel s.px c r = true) → t.reg 15#4 = 1#8) ∧
          (¬ (∃ c r, one c r ∧ pixel s.px c r = true) → t.reg 15#4 = 0#8)) ∧
        (∀ r, r ≠ 15#4 → t.reg r = s.reg r) ∧ KeepsAllBut [.v, .px] s t) ∧
    (n > 0 ∧ s.i.toNat + n - 1 > 4095 →
      exec (.drw x y n) s = .next (Raised s .memoryBoundsError (BitVec.ofNat 16 (max s.i.toNat 4096))))

/-- R205: drawing the same sprite twice at the same coordinates restores the display; the second draw collides exactly when a 1
bit lay over a pixel that was unset before the first. Marked derived in R205. -/
def Obligations.DoubleDrawRestoresTheDisplay : Prop :=
  ∀ (p : Display) (cx cy : Byte) (bytes : List Byte), bytes.length ≤ 15 →
    (drawSprite (drawSprite p cx cy bytes).1 cx cy bytes).1 = p ∧
    ∀ one : Fin 64 → Fin 32 → Prop,
      one = SpriteOne (fun row => bytes[row]?.getD 0#8) bytes.length cx.toNat cy.toNat →
      ((drawSprite p cx cy bytes).2 = true ↔ ∃ c r, one c r ∧ pixel p c r = true) ∧
      ((drawSprite (drawSprite p cx cy bytes).1 cx cy bytes).2 = true ↔ ∃ c r, one c r ∧ pixel p c r = false)

/-! ### Timers and keypad (44_timers_keypad.md) -/

/-- R220: `LD Vx, DT`; `DT` does not change. -/
def Obligations.ReadDelayTimer : Prop :=
  ∀ (x : Reg) (s : State),
    EncodedAs (.ldVxDt x) (0xF#4 ++ x ++ 0x07#8) ∧
    ∃ t, exec (.ldVxDt x) s = .next t ∧ t.reg x = s.dt ∧ OnlyRegs [x] s t

/-- R221, R222: `LD DT, Vx` and `LD ST, Vx`. -/
def Obligations.SetTimers : Prop :=
  ∀ (x : Reg) (s : State),
    (EncodedAs (.ldDtVx x) (0xF#4 ++ x ++ 0x15#8) ∧
      ∃ t, exec (.ldDtVx x) s = .next t ∧ t.dt = s.reg x ∧ KeepsAllBut [.dt] s t) ∧
    (EncodedAs (.ldStVx x) (0xF#4 ++ x ++ 0x18#8) ∧
      ∃ t, exec (.ldStVx x) s = .next t ∧ t.st = s.reg x ∧ KeepsAllBut [.st] s t)

/-- R226: `LD Vx, K` records the marker and nothing else: no register, no latch, no key flag, no further move of `PC`. -/
def Obligations.KeyWaitRecordsTheMarker : Prop :=
  ∀ (x : Reg) (s : State),
    EncodedAs (.ldVxK x) (0xF#4 ++ x ++ 0x0A#8) ∧
    ∃ t, exec (.ldVxK x) s = .next t ∧ t.wait = some x ∧ KeepsAllBut [.wait] s t

/-- R231: `tick` decrements both timers by exactly 1, clamped at 0, touches nothing else, and is ignored when halted. -/
def Obligations.TickDecrementsBothTimers : Prop :=
  ∀ s : State, ∃ t, perform .tick s = .next t ∧
    (s.err = .noError → t.dt.toNat = s.dt.toNat - 1 ∧ t.st.toNat = s.st.toNat - 1 ∧ KeepsAllBut [.dt, .st] s t) ∧
    (s.err ≠ .noError → t = s)

/-- R228: `key(k)` leaves `k` the only key down and latches it, touches nothing else, and is ignored when halted. -/
def Obligations.KeyPressIsExclusiveAndLatched : Prop :=
  ∀ (s : State) (k : Key), ∃ t, perform (.key k) s = .next t ∧
    (s.err = .noError → (∀ j : Fin 16, t.key[j] = true ↔ j.val = k.toNat) ∧ t.latch = some k ∧
      KeepsAllBut [.key, .latch] s t) ∧
    (s.err ≠ .noError → t = s)

/-! ### The driver's other operations (45_host_operations.md) -/

/-- R252: `load` writes the program from 512, or is ignored when halted or started, or raises `MemoryBoundsError(4096)` when the
program is over-long and writes nothing (decision D25). -/
def Obligations.LoadPlacesTheProgram : Prop :=
  ∀ (s : State) (bytes : List Byte),
    (s.err ≠ .noError ∨ s.started = true → perform (.load bytes) s = .next s) ∧
    (s.err = .noError → s.started = false → bytes.length > 3584 →
      perform (.load bytes) s = .next (Raised s .memoryBoundsError 4096#16)) ∧
    (s.err = .noError → s.started = false → bytes.length ≤ 3584 →
      ∃ t, perform (.load bytes) s = .next t ∧
        (∀ k, (h : k < bytes.length) → t.mem.read (512 + k) = bytes[k]) ∧
        BytesKeptOutside 512 bytes.length s t ∧ KeepsAllBut [.mem] s t)

/-- R40, R251, R321: `reset` acts in every state and leaves every item at its reset value, keeping the straps and the font, which
are no state; and so does the model's reset state, with the default straps. All values but `PC`, the places of font and program
are the spec's decisions D5 and D6; the default font is R31's (notes/assumptions/1.md). -/
def Obligations.ResetLeavesResetValues : Prop :=
  (∀ s : State, ∃ t, perform .reset s = .next t ∧ ResetValues t ∧ t.cfg = s.cfg ∧ t.mem.font = s.mem.font) ∧
  ResetValues State.reset ∧ State.reset.cfg = ⟨false, false⟩

/-- R282, R322: a freshly reset core with no program halts at its first step with `DecodeError(0x0000)` and `PC` = 0x0202. It
rests on the reset contents of memory (decision D6) and on the strict decode (decision D10). -/
def Obligations.BootWithoutProgramHalts : Prop :=
  ∀ (s : State) (rnd : Byte), ∃ t, runOps [.reset, .step rnd] s = .next t ∧
    t.err = .decodeError ∧ t.errInfo = 0#16 ∧ t.pc = 0x0202#16 ∧ t.started = true

/-- R257: within one logical cycle the order is tick, key, step: an instruction that reads `DT` sees the decremented value, and a
key delivered in a cycle resolves a wait in that cycle. The order is the spec's decision D2. -/
def Obligations.LogicalCycleOrder : Prop :=
  ∀ (s : State) (x : Reg) (rnd : Byte),
    (∀ k, KeyWaiting s x → ∃ t, logicalCycle (some k) rnd s = .next t ∧
      (t.reg x).toNat = k.toNat ∧ t.wait = none ∧ t.latch = none ∧ t.dt.toNat = s.dt.toNat - 1) ∧
    (∀ event, Running s → s.pc.toNat ≤ 4094 → WordAtPc s = 0xF#4 ++ x ++ 0x07#8 →
      ∃ t, logicalCycle event rnd s = .next t ∧ (t.reg x).toNat = s.dt.toNat - 1)

/-- R259, the spec's own choice (decision D1): one sampling of the port binding without `rst` and `load_we`, under unchanged
straps, is the requested operations in the order tick, key, step. -/
def Obligations.PortCycleServesTickKeyStep : Prop :=
  ∀ (p : PortIn) (s : State), p.rst = false → p.loadWe = false →
    s.cfg = ⟨p.cfgShiftSrcVy, p.cfgStoreZeroesRegs⟩ →
    portCycle p s = runOps
      ((if p.tickReq then [.tick] else []) ++ (if p.keyValid then [.key p.keyCode] else []) ++
        (if p.stepReq then [.step p.rnd] else [])) s

/-- R256, R35, R281: the outputs are readable in every state and are what the latches hold: `halted` is 1 exactly when `ERR` is
not 0, `err_code` is the code of the error (the codes are decision D21, `err_info` is decision D34), and `key_wait_reg` is
0 when no wait is pending. -/
def Obligations.OutputsShowTheLatches : Prop :=
  ∀ s : State,
    (s.outputs.halted = true ↔ s.err ≠ .noError) ∧
    (s.err = .noError → s.outputs.errCode = 0#3) ∧ (s.err = .decodeError → s.outputs.errCode = 1#3) ∧
    (s.err = .memoryBoundsError → s.outputs.errCode = 2#3) ∧ (s.err = .stackOverflow → s.outputs.errCode = 3#3) ∧
    (s.err = .stackUnderflow → s.outputs.errCode = 4#3) ∧
    (∀ x, s.wait = some x → s.outputs.keyWait = true ∧ s.outputs.keyWaitReg = x) ∧
    (s.wait = none → s.outputs.keyWait = false ∧ s.outputs.keyWaitReg = 0#4) ∧
    s.outputs.dt = s.dt ∧ s.outputs.st = s.st ∧ s.outputs.errInfo = s.errInfo ∧
    ∀ c r, s.disp c r = pixel s.px c r

/-- R236: the sixteen pairs of the table; each key code has exactly one symbol; and every other symbol changes nothing. The
bytes are marked general knowledge (93_implementation_defined.md G5); that the table is a front end of `key` is decision D24. -/
def Obligations.SymbolTableCoversEachKeyOnce : Prop :=
  (keyOfSymbol 0x31#8 = some 0x1#4 ∧ keyOfSymbol 0x32#8 = some 0x2#4 ∧ keyOfSymbol 0x33#8 = some 0x3#4 ∧
    keyOfSymbol 0x34#8 = some 0xC#4 ∧ keyOfSymbol 0x71#8 = some 0x4#4 ∧ keyOfSymbol 0x77#8 = some 0x5#4 ∧
    keyOfSymbol 0x65#8 = some 0x6#4 ∧ keyOfSymbol 0x72#8 = some 0xD#4 ∧ keyOfSymbol 0x61#8 = some 0x7#4 ∧
    keyOfSymbol 0x73#8 = some 0x8#4 ∧ keyOfSymbol 0x64#8 = some 0x9#4 ∧ keyOfSymbol 0x66#8 = some 0xE#4 ∧
    keyOfSymbol 0x7A#8 = some 0xA#4 ∧ keyOfSymbol 0x78#8 = some 0x0#4 ∧ keyOfSymbol 0x63#8 = some 0xB#4 ∧
    keyOfSymbol 0x76#8 = some 0xF#4) ∧
  (∀ k : Key, ∃ b, keyOfSymbol b = some k ∧ ∀ c, keyOfSymbol c = some k → c = b) ∧
  ∀ (b : Byte) (s : State),
    (∀ k, keyOfSymbol b = some k → symbolEvent b s = keyOp k s) ∧ (keyOfSymbol b = none → symbolEvent b s = s)

/-! ### Rules of the whole machine -/

/-- Every step keeps the invariant (R25, R27, R32, R35, R37, R60). -/
def Obligations.StepKeepsInvariant : Prop :=
  ∀ s t : State, Inv s → step s = .next t → Inv t

/-- The reset state meets the invariant `Inv` (Safety.lean). -/
def Obligations.ResetMeetsInvariant : Prop := Inv State.reset

/-- Every operation of the driver, in any sequence, completes and keeps the invariant: from a state that meets it no
sequence of operations leaves it (R25, R250, R258, R260). -/
def Obligations.DriverSequencesKeepInvariant : Prop :=
  ∀ (ops : List DriverOp) (s : State), Inv s → ∃ t, runOps ops s = .next t ∧ Inv t

/-- Every instruction completes within its step, in every state: "none loops, blocks or suspends" (R123); and so does a step. -/
def Obligations.EveryInstructionCompletes : Prop :=
  (∀ (i : Instr) (s : State), ∃ t, exec i s = .next t) ∧ ∀ s : State, ∃ t, step s = .next t

/-- R284, R283, R288: an instruction that changes the error latch is one that can raise that error; it raises exactly under its
rule's condition, and then nothing but the latch changes (R285, decision D20). -/
def Obligations.OnlyTheseInstructionsRaise : Prop :=
  ∀ (i : Instr) (s t : State), exec i s = .next t →
    (t.err ≠ s.err ∨ t.errInfo ≠ s.errInfo →
      ((∃ nnn, i = .call nnn) ∧ s.sp.val = 16 ∧ t = Raised s .stackOverflow s.pc) ∨
      (i = .ret ∧ s.sp.val = 0 ∧ t = Raised s .stackUnderflow 0#16) ∨
      (((∃ x, i = .ldB x ∧ s.i.toNat + 2 > 4095) ∨ (∃ x, i = .storeRegs x ∧ s.i.toNat + x.toNat > 4095) ∨
          (∃ x, i = .loadRegs x ∧ s.i.toNat + x.toNat > 4095) ∨
          (∃ x y n, i = .drw x y n ∧ 0 < n ∧ s.i.toNat + n - 1 > 4095)) ∧
        t = Raised s .memoryBoundsError (BitVec.ofNat 16 (max s.i.toNat 4096))))

/-- R43: the write sets. An instruction changes no item that R43 does not list for it (the error latch apart). -/
def Obligations.InstructionsWriteOnlyTheirItems : Prop :=
  ∀ (i : Instr) (s t : State), exec i s = .next t → KeepsAllBut
    (.err :: .errInfo ::
      match i with
      | .cls => [.px]
      | .ret => [.pc, .sp]
      | .call _ => [.pc, .sp, .stk]
      | .jp _ | .jpV0 _ | .seImm _ _ | .sneImm _ _ | .seReg _ _ | .sneReg _ _ | .skp _ | .sknp _ => [.pc]
      | .ldImm _ _ | .addImm _ _ | .ldReg _ _ | .orReg _ _ | .andReg _ _ | .xorReg _ _ | .addReg _ _ | .sub _ _
      | .shr _ _ | .subn _ _ | .shl _ _ | .rnd _ _ | .ldVxDt _ | .loadRegs _ => [.v]
      | .ldI _ | .addI _ | .ldF _ => [.i]
      | .drw _ _ _ => [.v, .px]
      | .ldVxK _ => [.wait]
      | .ldDtVx _ => [.dt]
      | .ldStVx _ => [.st]
      | .ldB _ => [.mem]
      | .storeRegs _ => if s.cfg.storeZeroesRegs then [.mem, .v] else [.mem]) s t

/-- R22: `VF` changes only by an instruction that names `V[15]` as its destination or by one of the six that write it as a side
effect, and these leave 0 or 1 in it. That no other instruction writes it is the spec's decision D15. -/
def Obligations.FlagRegisterWriters : Prop :=
  ∀ (i : Instr) (s t : State), exec i s = .next t →
    (t.reg 15#4 ≠ s.reg 15#4 →
      (∃ x y, i = .addReg x y ∨ i = .sub x y ∨ i = .subn x y ∨ i = .shr x y ∨ i = .shl x y) ∨
      (∃ x y n, i = .drw x y n) ∨
      (∃ kk, i = .ldImm 15#4 kk ∨ i = .addImm 15#4 kk ∨ i = .rnd 15#4 kk) ∨
      (∃ y, i = .ldReg 15#4 y ∨ i = .orReg 15#4 y ∨ i = .andReg 15#4 y ∨ i = .xorReg 15#4 y) ∨
      i = .ldVxDt 15#4 ∨ i = .loadRegs 15#4 ∨ (i = .storeRegs 15#4 ∧ s.cfg.storeZeroesRegs = true)) ∧
    ((∃ x y, i = .addReg x y ∨ i = .sub x y ∨ i = .subn x y ∨ i = .shr x y ∨ i = .shl x y) →
      t.reg 15#4 = 0#8 ∨ t.reg 15#4 = 1#8) ∧
    ((∃ x y n, i = .drw x y n) → t.err = s.err → s.err = .noError → t.reg 15#4 = 0#8 ∨ t.reg 15#4 = 1#8)

/-- R186, R77: memory changes only by `LD B` and `LD [I]`, and among the driver's operations only by `load` before the first step,
by `reset`, and by a `step`. Marked derived in R186. -/
def Obligations.MemoryWriters : Prop :=
  (∀ (i : Instr) (s t : State) (a : Nat), exec i s = .next t → t.mem.read a ≠ s.mem.read a →
    (∃ x, i = .ldB x ∧ s.i.toNat ≤ a ∧ a < s.i.toNat + 3) ∨
    (∃ x, i = .storeRegs x ∧ s.i.toNat ≤ a ∧ a ≤ s.i.toNat + x.toNat)) ∧
  (∀ (op : DriverOp) (s t : State) (a : Nat), perform op s = .next t → t.mem.read a ≠ s.mem.read a →
    op = .reset ∨ (∃ rnd, op = .step rnd) ∨ ((∃ bytes, op = .load bytes) ∧ s.started = false ∧ 512 ≤ a))

/-- R28: "monotonically non-increasing except when explicitly set": `DT` increases only by `LD DT, Vx` and `ST` only by
`LD ST, Vx`, over every instruction, and no operation of the driver other than a step increases either. -/
def Obligations.TimersIncreaseOnlyWhenSet : Prop :=
  (∀ (i : Instr) (s t : State), exec i s = .next t →
    (t.dt.toNat > s.dt.toNat → ∃ x, i = .ldDtVx x) ∧ (t.st.toNat > s.st.toNat → ∃ x, i = .ldStVx x)) ∧
  (∀ (op : DriverOp) (s t : State), perform op s = .next t → (∀ rnd, op ≠ .step rnd) →
    t.dt.toNat ≤ s.dt.toNat ∧ t.st.toNat ≤ s.st.toNat)

/-- R125: "push(a); push(b); pop() == b; pop() == a", from every stack with room for two; the stack is then as long as before, so
empty where it was empty. -/
def Obligations.StackRoundTrip : Prop :=
  ∀ (s : State) (a b : Word), s.sp.val + 2 ≤ 16 →
    ∃ s1 s2 s3 s4, s.push a = .ok s1 ∧ s1.push b = .ok s2 ∧ s2.pop = .ok (b, s3) ∧ s3.pop = .ok (a, s4) ∧
      s4.sp = s.sp

/-- R75: a store is seen by the very next fetch. After `LD [I], Vx` with `x` at least 1 and `I` equal to `PC`, the next step
executes the word made of the old `V[0]` and `V[1]`. Marked derived in R75. -/
def Obligations.StoreIsSeenByNextFetch : Prop :=
  ∀ (s t : State) (x : Reg) (rnd : Byte) (i : Instr),
    Running s → 1 ≤ x.toNat → s.i = s.pc → s.i.toNat + x.toNat ≤ 4095 → exec (.storeRegs x) s = .next t →
    decode (s.reg 0#4 ++ s.reg 1#4) = .ok i →
    stepOp rnd t = exec i { StepBegun rnd t with pc := t.pc + 2#16 }

/-- R8, R321: the straps, and with them the font, are the same after every sequence of operations, `reset` among them. -/
def Obligations.StrapsAreConstant : Prop :=
  ∀ (ops : List DriverOp) (s t : State), runOps ops s = .next t →
    t.cfg = s.cfg ∧ t.mem.font = s.mem.font

/-- R230: there is no key release: over any sequence of operations without `reset` and without a press of another key, a key
that is down stays down (decision D24). -/
def Obligations.PressedKeyStaysDown : Prop :=
  ∀ (ops : List DriverOp) (s t : State) (k : Key), runOps ops s = .next t → s.key[k.toFin] = true →
    DriverOp.reset ∉ ops → (∀ j, DriverOp.key j ∈ ops → j = k) → t.key[k.toFin] = true

/-- R300, U8: a core in KEYWAIT with an empty latch stays there, `PC` where it is, through every sequence of steps and ticks; only
`STARTED`, which a wait implies (Safety.lean, `Inv.waiting`), and the timers may change. -/
def Obligations.KeyWaitLastsUntilAKey : Prop :=
  ∀ (ops : List DriverOp) (s : State) (x : Reg), KeyWaiting s x → s.latch = none →
    (∀ op ∈ ops, op = .tick ∨ ∃ rnd, op = .step rnd) →
    ∃ t, runOps ops s = .next t ∧ KeyWaiting t x ∧ t.latch = none ∧ KeepsAllBut [.dt, .st, .started] s t
end

