-- ==== Sys2Proof/Laws/Decode.lean ====
section
/-! SUPPORT. The fields of a packed word (30_encoding.md R91): each field reads back what the format put there. -/

namespace Sys2Proof

/-- Bit `j` of a format-`A` word. -/
theorem packA_getLsbD (op : BitVec 4) (nnn : Addr) (j : Nat) :
    (packA op nnn).getLsbD j = if j < 12 then nnn.getLsbD j else op.getLsbD (j - 12) :=
  BitVec.getLsbD_append

/-- Bit `j` of a format-`XK` word. -/
theorem packXK_getLsbD (op : BitVec 4) (x : Reg) (kk : Byte) (j : Nat) :
    (packXK op x kk).getLsbD j =
      if j < 8 then kk.getLsbD j else if j - 8 < 4 then x.getLsbD (j - 8) else op.getLsbD (j - 8 - 4) := by
  rw [← BitVec.getLsbD_append]
  exact BitVec.getLsbD_append

/-- Bit `j` of a format-`XY` word. -/
theorem packXY_getLsbD (op : BitVec 4) (x y : Reg) (n : BitVec 4) (j : Nat) :
    (packXY op x y n).getLsbD j =
      if j < 4 then n.getLsbD j
      else if j - 4 < 4 then y.getLsbD (j - 4)
      else if j - 4 - 4 < 4 then x.getLsbD (j - 4 - 4) else op.getLsbD (j - 4 - 4 - 4) := by
  rw [← BitVec.getLsbD_append (x := op), ← BitVec.getLsbD_append (y := y)]
  exact BitVec.getLsbD_append

@[simp] theorem fieldOp_packA (op : BitVec 4) (nnn : Addr) : fieldOp (packA op nnn) = op := by
  ext j hj
  have := packA_getLsbD op nnn (12 + j)
  simp_all [fieldOp]

@[simp] theorem fieldNNN_packA (op : BitVec 4) (nnn : Addr) : fieldNNN (packA op nnn) = nnn := by
  ext j hj
  have := packA_getLsbD op nnn j
  simp_all [fieldNNN]

@[simp] theorem fieldOp_packXK (op : BitVec 4) (x : Reg) (kk : Byte) : fieldOp (packXK op x kk) = op := by
  ext j hj
  have := packXK_getLsbD op x kk (12 + j)
  simp_all [fieldOp, show ¬ 12 + j < 8 by omega, show ¬ 12 + j - 8 < 4 by omega, show 12 + j - 8 - 4 = j by omega]

@[simp] theorem fieldX_packXK (op : BitVec 4) (x : Reg) (kk : Byte) : fieldX (packXK op x kk) = x := by
  ext j hj
  have := packXK_getLsbD op x kk (8 + j)
  simp_all [fieldX]

@[simp] theorem fieldKK_packXK (op : BitVec 4) (x : Reg) (kk : Byte) : fieldKK (packXK op x kk) = kk := by
  ext j hj
  have := packXK_getLsbD op x kk j
  simp_all [fieldKK]

@[simp] theorem fieldOp_packXY (op : BitVec 4) (x y : Reg) (n : BitVec 4) : fieldOp (packXY op x y n) = op := by
  ext j hj
  have := packXY_getLsbD op x y n (12 + j)
  simp_all [fieldOp, show ¬ 12 + j < 4 by omega, show ¬ 12 + j - 4 < 4 by omega, show ¬ 12 + j - 4 - 4 < 4 by omega,
    show 12 + j - 4 - 4 - 4 = j by omega]

@[simp] theorem fieldX_packXY (op : BitVec 4) (x y : Reg) (n : BitVec 4) : fieldX (packXY op x y n) = x := by
  ext j hj
  have := packXY_getLsbD op x y n (8 + j)
  simp_all [fieldX, show ¬ 8 + j < 4 by omega, show ¬ 8 + j - 4 < 4 by omega, show 8 + j - 4 - 4 = j by omega]

@[simp] theorem fieldY_packXY (op : BitVec 4) (x y : Reg) (n : BitVec 4) : fieldY (packXY op x y n) = y := by
  ext j hj
  have := packXY_getLsbD op x y n (4 + j)
  simp_all [fieldY]

@[simp] theorem fieldN_packXY (op : BitVec 4) (x y : Reg) (n : BitVec 4) : fieldN (packXY op x y n) = n := by
  ext j hj
  have := packXY_getLsbD op x y n j
  simp_all [fieldN]

end Sys2Proof
end

