-- ==== Sys2Proof/Laws/Display.lean ====
section
/-! SUPPORT. What the sprite compositor does (43_display.md R203, R204): it is a run of toggles of distinct pixels, so each pixel
ends toggled exactly when a 1 bit of the sprite lies over it. -/

namespace Sys2Proof.Machine

@[simp] theorem pixel_setPixel_same (p : Display) (c : Fin 64) (r : Fin 32) (b : Bool) :
    pixel (setPixel p c r b) c r = b := by
  simp [pixel, setPixel]

theorem pixel_setPixel_ne (p : Display) {c c' : Fin 64} {r r' : Fin 32} (b : Bool) (h : (c', r') ≠ (c, r)) :
    pixel (setPixel p c r b) c' r' = pixel p c' r' := by
  by_cases hc : c' = c
  · subst hc
    have hr : r.val ≠ r'.val := fun e => h (by rw [Fin.ext e])
    simp [pixel, setPixel, hr]
  · have hv : c.val ≠ c'.val := fun e => hc (Fin.ext e.symm)
    simp [pixel, setPixel, hv]

@[simp] theorem pixel_clearDisplay (c : Fin 64) (r : Fin 32) : pixel clearDisplay c r = false := by
  simp [pixel, clearDisplay]

/-- Two displays with the same pixels are equal. -/
theorem display_ext {p q : Display} (h : ∀ c r, pixel p c r = pixel q c r) : p = q := by
  apply Vector.ext
  intro c hc
  apply Vector.ext
  intro r hr
  exact h ⟨c, hc⟩ ⟨r, hr⟩

/-- A pixel and the sprite bit that lies over it. -/
abbrev Touch := (Fin 64 × Fin 32) × Bool

/-- One toggle: the body of the loops of R203 for one touched pixel. -/
def toggle (acc : Display × Bool) (p : Touch) : Display × Bool :=
  (setPixel acc.1 p.1.1 p.1.2 (xor (pixel acc.1 p.1.1 p.1.2) p.2), acc.2 || (pixel acc.1 p.1.1 p.1.2 && p.2))

/-- The pixels one sprite row touches. -/
def rowTouches (cx cy row : Nat) (b : Byte) : List Touch :=
  (List.range 8).map fun bit => ((Fin.ofNat 64 (cx + bit), Fin.ofNat 32 (cy + row)), b.getLsbD (7 - bit))

/-- The pixels the rows of a sprite touch, from row `row` on. -/
def touches (cx cy : Nat) : Nat → List Byte → List Touch
  | _, [] => []
  | row, b :: bs => rowTouches cx cy row b ++ touches cx cy (row + 1) bs

theorem drawRow_eq_toggles (cx cy row : Nat) (b : Byte) (acc : Display × Bool) :
    drawRow cx cy row b acc = (rowTouches cx cy row b).foldl toggle acc := by
  rw [drawRow, rowTouches, List.foldl_map]
  rfl

theorem drawRows_eq_toggles (cx cy row : Nat) (bs : List Byte) (acc : Display × Bool) :
    drawRows cx cy row bs acc = (touches cx cy row bs).foldl toggle acc := by
  induction bs generalizing row acc with
  | nil => rfl
  | cons b bs ih => rw [drawRows, ih, drawRow_eq_toggles, touches, List.foldl_append]

/-- A run of toggles of distinct pixels: each pixel is toggled when a 1 bit lies over it, and the collision says that a 1 bit
lay over a set pixel. -/
theorem toggles_spec (ts : List Touch) (h : (ts.map Prod.fst).Nodup) (acc : Display × Bool) :
    (∀ c r, pixel (ts.foldl toggle acc).1 c r = xor (pixel acc.1 c r) (decide (((c, r), true) ∈ ts))) ∧
    ((ts.foldl toggle acc).2 = true ↔
      acc.2 = true ∨ ∃ c r, ((c, r), true) ∈ ts ∧ pixel acc.1 c r = true) := by
  induction ts generalizing acc with
  | nil => simp
  | cons t ts ih =>
    obtain ⟨⟨c0, r0⟩, b0⟩ := t
    simp only [List.map_cons, List.nodup_cons] at h
    obtain ⟨hnew, hnodup⟩ := h
    have hfresh : ∀ b, ((c0, r0), b) ∉ ts := fun b hb => hnew (List.mem_map.mpr ⟨_, hb, rfl⟩)
    obtain ⟨hpix, hcoll⟩ := ih hnodup (toggle acc ((c0, r0), b0))
    rw [List.foldl_cons]
    constructor
    · intro c r
      rw [hpix]
      by_cases hcr : (c, r) = (c0, r0)
      · obtain ⟨rfl, rfl⟩ := Prod.mk.inj hcr
        cases b0 <;> simp [toggle, hfresh]
      · rw [toggle, pixel_setPixel_ne _ _ hcr]
        have : (((c, r), true) : Touch) ≠ ((c0, r0), b0) := fun e => hcr (congrArg Prod.fst e)
        simp [this]
    · rw [hcoll]
      have hold : ∀ c r, ((c, r), true) ∈ ts →
          pixel (toggle acc ((c0, r0), b0)).1 c r = pixel acc.1 c r := by
        intro c r hm
        exact pixel_setPixel_ne _ _ fun e => hfresh true (by rw [← e]; exact hm)
      constructor
      · rintro (h1 | ⟨c, r, hm, hp⟩)
        · simp only [toggle, Bool.or_eq_true, Bool.and_eq_true] at h1
          rcases h1 with h1 | ⟨h1, h2⟩
          · exact .inl h1
          · exact .inr ⟨c0, r0, by simp [h2], h1⟩
        · exact .inr ⟨c, r, List.mem_cons_of_mem _ hm, by rw [← hold c r hm]; exact hp⟩
      · rintro (h1 | ⟨c, r, hm, hp⟩)
        · exact .inl (by simp [toggle, h1])
        · rcases List.mem_cons.mp hm with e | hm
          · obtain ⟨e1, rfl⟩ := Prod.mk.inj e
            obtain ⟨rfl, rfl⟩ := Prod.mk.inj e1
            exact .inl (by simp [toggle, hp])
          · exact .inr ⟨c, r, hm, by rw [hold c r hm]; exact hp⟩

theorem mem_touches {cx cy row : Nat} {bs : List Byte} {c : Fin 64} {r : Fin 32} {b : Bool} :
    ((c, r), b) ∈ touches cx cy row bs ↔
      ∃ k bit, k < bs.length ∧ bit < 8 ∧ c.val = (cx + bit) % 64 ∧ r.val = (cy + row + k) % 32 ∧
        (bs[k]?.getD 0#8).getLsbD (7 - bit) = b := by
  induction bs generalizing row with
  | nil => simp [touches]
  | cons b0 bs ih =>
    rw [touches, List.mem_append, ih]
    constructor
    · rintro (h | ⟨k, bit, hk, hbit, hc, hr, hb⟩)
      · simp only [rowTouches, List.mem_map, List.mem_range, Prod.mk.injEq] at h
        obtain ⟨bit, hbit, ⟨rfl, rfl⟩, hb⟩ := h
        exact ⟨0, bit, by simp, hbit, rfl, rfl, by simpa using hb⟩
      · exact ⟨k + 1, bit, by simp; omega, hbit, hc, by rw [hr]; congr 1; omega, by simpa using hb⟩
    · rintro ⟨k, bit, hk, hbit, hc, hr, hb⟩
      cases k with
      | zero =>
        left
        simp only [rowTouches, List.mem_map, List.mem_range, Prod.mk.injEq]
        exact ⟨bit, hbit, ⟨Fin.ext hc.symm, Fin.ext hr.symm⟩, by simpa using hb⟩
      | succ k =>
        right
        exact ⟨k, bit, by simp at hk; omega, hbit, hc, by rw [hr]; congr 1; omega, by simpa using hb⟩

theorem rowTouches_nodup (cx cy row : Nat) (b : Byte) : ((rowTouches cx cy row b).map Prod.fst).Nodup := by
  rw [rowTouches, List.map_map]
  apply List.Nodup.map_on _ List.nodup_range
  intro i hi j hj h
  have h1 := congrArg (fun q : Fin 64 × Fin 32 => q.1.val) h
  simp only [List.mem_range] at hi hj
  simp [Fin.ofNat] at h1
  omega

/-- R204: no pixel is touched twice by a sprite of at most 32 rows. -/
theorem touches_nodup (cx cy row : Nat) (bs : List Byte) (h : bs.length ≤ 32) :
    ((touches cx cy row bs).map Prod.fst).Nodup := by
  induction bs generalizing row with
  | nil => simp [touches]
  | cons b0 bs ih =>
    simp only [List.length_cons] at h
    rw [touches, List.map_append]
    refine List.Nodup.append (rowTouches_nodup ..) (ih _ (by omega)) ?_
    intro q h1 h2
    obtain ⟨⟨⟨c, r⟩, b⟩, hm1, rfl⟩ := List.mem_map.mp h1
    obtain ⟨⟨⟨c', r'⟩, b'⟩, hm2, e⟩ := List.mem_map.mp h2
    obtain ⟨rfl, rfl⟩ := Prod.mk.inj e
    simp only [rowTouches, List.mem_map, List.mem_range, Prod.mk.injEq] at hm1
    obtain ⟨bit, -, ⟨-, hr⟩, -⟩ := hm1
    obtain ⟨k, bit', hk, -, -, hr', -⟩ := mem_touches.mp hm2
    have := congrArg Fin.val hr
    simp [Fin.ofNat] at this
    omega

/-- Everything `DrawSprite` does (R203), for a sprite of at most 32 rows: a pixel is toggled exactly when a 1 bit of the sprite
lies over it, and the collision is true exactly when one lies over a set pixel. -/
theorem drawSprite_spec (p : Display) (cx cy : Byte) (bs : List Byte) (h : bs.length ≤ 32) :
    (∀ c r, ((c, r), true) ∈ touches cx.toNat cy.toNat 0 bs →
      pixel (drawSprite p cx cy bs).1 c r = !pixel p c r) ∧
    (∀ c r, ((c, r), true) ∉ touches cx.toNat cy.toNat 0 bs →
      pixel (drawSprite p cx cy bs).1 c r = pixel p c r) ∧
    ((drawSprite p cx cy bs).2 = true ↔
      ∃ c r, ((c, r), true) ∈ touches cx.toNat cy.toNat 0 bs ∧ pixel p c r = true) := by
  obtain ⟨h1, h2⟩ := toggles_spec (touches cx.toNat cy.toNat 0 bs) (touches_nodup _ _ _ _ h) (p, false)
  rw [← drawRows_eq_toggles] at h1 h2
  refine ⟨fun c r hc => ?_, fun c r hc => ?_, by simpa [drawSprite] using h2⟩
  · simpa [drawSprite, hc] using h1 c r
  · simpa [drawSprite, hc] using h1 c r

end Sys2Proof.Machine
end

