-- ==== Sys2Proof/Laws/Memory.lean ====
section
/-! SUPPORT. The laws of memory: a read after a write, at the same place and elsewhere, in EVERY memory (canonical or not), and
that every memory operation keeps the canonical form. -/

namespace Sys2Proof.Machine

@[simp] theorem lookupCell_eraseCell_same (cs : List Host.Cell) (a : Nat) : lookupCell (eraseCell cs a) a = none := by
  induction cs with
  | nil => rfl
  | cons c cs ih =>
    obtain ⟨k, b⟩ := c
    by_cases h : k = a <;> simp [eraseCell, lookupCell, h, ih]

theorem lookupCell_eraseCell_ne (cs : List Host.Cell) {a b : Nat} (h : b ≠ a) :
    lookupCell (eraseCell cs a) b = lookupCell cs b := by
  induction cs with
  | nil => rfl
  | cons c cs ih =>
    obtain ⟨k, v⟩ := c
    by_cases h1 : k = a
    · have : k ≠ b := by omega
      simp [eraseCell, lookupCell, h1, ih]
      omega
    · simp [eraseCell, lookupCell, h1, ih]

@[simp] theorem lookupCell_insertCell_same (cs : List Host.Cell) (a : Nat) (v : Byte) :
    lookupCell (insertCell cs a v) a = some v := by
  induction cs with
  | nil => simp [insertCell, lookupCell]
  | cons c cs ih =>
    obtain ⟨k, w⟩ := c
    unfold insertCell
    split
    · simp [lookupCell]
    · split
      · simp [lookupCell]
      · have : k ≠ a := by omega
        simp [lookupCell, this, ih]

theorem lookupCell_insertCell_ne (cs : List Host.Cell) {a b : Nat} (v : Byte) (h : b ≠ a) :
    lookupCell (insertCell cs a v) b = lookupCell cs b := by
  have hab : a ≠ b := Ne.symm h
  induction cs with
  | nil => simp [insertCell, lookupCell, hab]
  | cons c cs ih =>
    obtain ⟨k, w⟩ := c
    unfold insertCell
    split
    · simp [lookupCell, hab]
    · split
      · have : k ≠ b := by omega
        simp [lookupCell, hab, this]
      · simp [lookupCell, ih]

/-! ### Reading after writing (R69) -/

@[simp] theorem Memory.write_font (m : Memory) (a : Nat) (b : Byte) : (m.write a b).font = m.font := rfl

@[simp] theorem Memory.write_unlisted (m : Memory) (a c : Nat) (b : Byte) : (m.write a b).unlisted c = m.unlisted c := rfl

@[simp] theorem Memory.read_write_same (m : Memory) (a : Nat) (b : Byte) : (m.write a b).read a = b := by
  unfold Memory.read
  rw [Memory.write_unlisted]
  by_cases h : b = m.unlisted a
  · simp [Memory.write, ← h]
  · simp [Memory.write, h]

theorem Memory.read_write_ne (m : Memory) {a c : Nat} (b : Byte) (h : c ≠ a) : (m.write a b).read c = m.read c := by
  unfold Memory.read
  rw [Memory.write_unlisted]
  by_cases hb : b = m.unlisted a
  · simp [Memory.write, hb, lookupCell_eraseCell_ne _ h]
  · simp [Memory.write, hb, lookupCell_insertCell_ne _ _ h]

theorem Memory.read_write (m : Memory) (a c : Nat) (b : Byte) :
    (m.write a b).read c = if c = a then b else m.read c := by
  by_cases h : c = a
  · simp [h]
  · simp [h, Memory.read_write_ne]

@[simp] theorem Memory.writeList_font (m : Memory) (base : Nat) (bs : List Byte) : (m.writeList base bs).font = m.font := by
  induction bs generalizing m base with
  | nil => rfl
  | cons b bs ih => simp [Memory.writeList, ih]

/-- What every address reads after a sequence of writes: the written byte inside, the old one outside. -/
theorem Memory.read_writeList (m : Memory) (base a : Nat) (bs : List Byte) :
    (m.writeList base bs).read a =
      if h : base ≤ a ∧ a < base + bs.length then bs[a - base]'(by omega) else m.read a := by
  induction bs generalizing m base with
  | nil => simp [Memory.writeList]
  | cons b bs ih =>
    rw [Memory.writeList, ih]
    by_cases h0 : a = base
    · subst h0
      rw [dif_neg (by omega), dif_pos (by simp)]
      simp
    · by_cases h1 : base + 1 ≤ a ∧ a < base + 1 + bs.length
      · rw [dif_pos h1, dif_pos (by simp only [List.length_cons]; omega)]
        have : a - base = (a - (base + 1)) + 1 := by omega
        simp [this]
      · rw [dif_neg h1, dif_neg (by simp only [List.length_cons]; omega)]
        exact Memory.read_write_ne _ _ h0

theorem Memory.read_writeList_outside (m : Memory) (base a : Nat) (bs : List Byte)
    (h : a < base ∨ base + bs.length ≤ a) : (m.writeList base bs).read a = m.read a := by
  rw [Memory.read_writeList, dif_neg (by omega)]

/-! ### The canonical form -/

theorem mem_eraseCell {cs : List Host.Cell} {a : Nat} {c : Host.Cell} : c ∈ eraseCell cs a ↔ c ∈ cs ∧ c.1 ≠ a := by
  induction cs with
  | nil => simp [eraseCell]
  | cons d cs ih =>
    obtain ⟨k, b⟩ := d
    by_cases h : k = a
    · simp only [eraseCell, h, if_true, ih, List.mem_cons]
      constructor
      · rintro ⟨h1, h2⟩; exact ⟨.inr h1, h2⟩
      · rintro ⟨rfl | h1, h2⟩
        · exact absurd rfl h2
        · exact ⟨h1, h2⟩
    · simp only [eraseCell, h, if_false, List.mem_cons, ih]
      constructor
      · rintro (rfl | ⟨h1, h2⟩)
        · exact ⟨.inl rfl, h⟩
        · exact ⟨.inr h1, h2⟩
      · rintro ⟨rfl | h1, h2⟩
        · exact .inl rfl
        · exact .inr ⟨h1, h2⟩

theorem mem_insertCell {cs : List Host.Cell} {a : Nat} {v : Byte} {c : Host.Cell} (h : c ∈ insertCell cs a v) :
    c = (a, v) ∨ c ∈ cs := by
  induction cs with
  | nil => simpa [insertCell] using h
  | cons d cs ih =>
    obtain ⟨k, b⟩ := d
    unfold insertCell at h
    split at h
    · simpa using h
    · split at h
      · rcases List.mem_cons.mp h with h | h
        · exact .inl h
        · exact .inr (List.mem_cons_of_mem _ h)
      · rcases List.mem_cons.mp h with h | h
        · exact .inr (by simp [h])
        · rcases ih h with h | h
          · exact .inl h
          · exact .inr (List.mem_cons_of_mem _ h)

theorem eraseCell_sublist (cs : List Host.Cell) (a : Nat) : (eraseCell cs a).Sublist cs := by
  induction cs with
  | nil => exact .slnil
  | cons d cs ih =>
    obtain ⟨k, b⟩ := d
    by_cases h : k = a
    · simpa [eraseCell, h] using ih.cons (k, b)
    · simpa [eraseCell, h] using ih.cons_cons (k, b)

theorem insertCell_pairwise {cs : List Host.Cell} (a : Nat) (v : Byte)
    (h : cs.Pairwise fun c d => c.1 < d.1) : (insertCell cs a v).Pairwise fun c d => c.1 < d.1 := by
  induction cs with
  | nil => simp [insertCell]
  | cons d cs ih =>
    obtain ⟨k, b⟩ := d
    obtain ⟨hk, hcs⟩ := List.pairwise_cons.mp h
    unfold insertCell
    split
    · rename_i hak
      refine List.pairwise_cons.mpr ⟨?_, h⟩
      intro c hc
      rcases List.mem_cons.mp hc with rfl | hc
      · exact hak
      · exact Nat.lt_trans hak (hk c hc)
    · split
      · rename_i hak
        exact List.pairwise_cons.mpr ⟨by simpa [hak] using hk, hcs⟩
      · refine List.pairwise_cons.mpr ⟨?_, ih hcs⟩
        intro c hc
        rcases mem_insertCell hc with rfl | hc
        · show k < a
          omega
        · exact hk c hc

theorem Memory.write_wf {m : Memory} (h : m.wf) {a : Nat} (ha : a < 4096) (b : Byte) : (m.write a b).wf := by
  obtain ⟨hsorted, hcells⟩ := h
  by_cases hb : b = m.unlisted a
  · have e : m.write a b = { m with cells := eraseCell m.cells a } := by simp [Memory.write, hb]
    rw [e]
    exact ⟨hsorted.sublist (eraseCell_sublist _ _), fun c hc => hcells c (mem_eraseCell.mp hc).1⟩
  · have e : m.write a b = { m with cells := insertCell m.cells a b } := by simp [Memory.write, hb]
    rw [e]
    refine ⟨insertCell_pairwise a b hsorted, fun c hc => ?_⟩
    rcases mem_insertCell hc with rfl | hc
    · exact ⟨ha, hb⟩
    · exact hcells c hc

/-- Every write inside the address space keeps the canonical form. -/
theorem Memory.writeList_wf {m : Memory} (h : m.wf) {base : Nat} {bs : List Byte} (hb : base + bs.length ≤ 4096) :
    (m.writeList base bs).wf := by
  induction bs generalizing m base with
  | nil => exact h
  | cons b bs ih =>
    simp only [List.length_cons] at hb
    exact ih (Memory.write_wf h (by omega) b) (by omega)

@[simp] theorem Memory.readList_length (m : Memory) (base count : Nat) : (m.readList base count).length = count := by
  simp [Memory.readList]

theorem Memory.readList_getElem (m : Memory) (base count k : Nat) (h : k < count) :
    (m.readList base count)[k]'(by simpa using h) = m.read (base + k) := by
  simp [Memory.readList]

/-- The memory of the reset state is canonical: it lists nothing. -/
theorem State.resetWith_mem_wf (cfg : Straps) (font : Vector Byte 80) (draws : Nat) :
    (State.resetWith cfg font draws).mem.wf :=
  ⟨List.Pairwise.nil, fun c hc => absurd hc (by simp [State.resetWith])⟩

end Sys2Proof.Machine
end

