-- ==== Sys2Proof/Laws/State.lean ====
section
/-! SUPPORT. One lemma per field of State per update of it, each true by rfl, so that no later proof unfolds a record update;
and what each register read gives after each update. -/

namespace Sys2Proof.Machine

/-! ### setReg -/

@[simp] theorem State.setReg_mem (s : State) (x : Reg) (b : Byte) : (s.setReg x b).mem = s.mem := rfl
@[simp] theorem State.setReg_v (s : State) (x : Reg) (b : Byte) : (s.setReg x b).v = s.v.set x.toNat b x.isLt := rfl
@[simp] theorem State.setReg_i (s : State) (x : Reg) (b : Byte) : (s.setReg x b).i = s.i := rfl
@[simp] theorem State.setReg_pc (s : State) (x : Reg) (b : Byte) : (s.setReg x b).pc = s.pc := rfl
@[simp] theorem State.setReg_stk (s : State) (x : Reg) (b : Byte) : (s.setReg x b).stk = s.stk := rfl
@[simp] theorem State.setReg_sp (s : State) (x : Reg) (b : Byte) : (s.setReg x b).sp = s.sp := rfl
@[simp] theorem State.setReg_dt (s : State) (x : Reg) (b : Byte) : (s.setReg x b).dt = s.dt := rfl
@[simp] theorem State.setReg_st (s : State) (x : Reg) (b : Byte) : (s.setReg x b).st = s.st := rfl
@[simp] theorem State.setReg_px (s : State) (x : Reg) (b : Byte) : (s.setReg x b).px = s.px := rfl
@[simp] theorem State.setReg_key (s : State) (x : Reg) (b : Byte) : (s.setReg x b).key = s.key := rfl
@[simp] theorem State.setReg_latch (s : State) (x : Reg) (b : Byte) : (s.setReg x b).latch = s.latch := rfl
@[simp] theorem State.setReg_wait (s : State) (x : Reg) (b : Byte) : (s.setReg x b).wait = s.wait := rfl
@[simp] theorem State.setReg_err (s : State) (x : Reg) (b : Byte) : (s.setReg x b).err = s.err := rfl
@[simp] theorem State.setReg_errInfo (s : State) (x : Reg) (b : Byte) : (s.setReg x b).errInfo = s.errInfo := rfl
@[simp] theorem State.setReg_started (s : State) (x : Reg) (b : Byte) : (s.setReg x b).started = s.started := rfl
@[simp] theorem State.setReg_cfg (s : State) (x : Reg) (b : Byte) : (s.setReg x b).cfg = s.cfg := rfl
@[simp] theorem State.setReg_rnd (s : State) (x : Reg) (b : Byte) : (s.setReg x b).rnd = s.rnd := rfl
@[simp] theorem State.setReg_draws (s : State) (x : Reg) (b : Byte) : (s.setReg x b).draws = s.draws := rfl

/-! ### setI -/

@[simp] theorem State.setI_mem (s : State) (w : Word) : (s.setI w).mem = s.mem := rfl
@[simp] theorem State.setI_v (s : State) (w : Word) : (s.setI w).v = s.v := rfl
@[simp] theorem State.setI_i (s : State) (w : Word) : (s.setI w).i = w := rfl
@[simp] theorem State.setI_pc (s : State) (w : Word) : (s.setI w).pc = s.pc := rfl
@[simp] theorem State.setI_stk (s : State) (w : Word) : (s.setI w).stk = s.stk := rfl
@[simp] theorem State.setI_sp (s : State) (w : Word) : (s.setI w).sp = s.sp := rfl
@[simp] theorem State.setI_dt (s : State) (w : Word) : (s.setI w).dt = s.dt := rfl
@[simp] theorem State.setI_st (s : State) (w : Word) : (s.setI w).st = s.st := rfl
@[simp] theorem State.setI_px (s : State) (w : Word) : (s.setI w).px = s.px := rfl
@[simp] theorem State.setI_key (s : State) (w : Word) : (s.setI w).key = s.key := rfl
@[simp] theorem State.setI_latch (s : State) (w : Word) : (s.setI w).latch = s.latch := rfl
@[simp] theorem State.setI_wait (s : State) (w : Word) : (s.setI w).wait = s.wait := rfl
@[simp] theorem State.setI_err (s : State) (w : Word) : (s.setI w).err = s.err := rfl
@[simp] theorem State.setI_errInfo (s : State) (w : Word) : (s.setI w).errInfo = s.errInfo := rfl
@[simp] theorem State.setI_started (s : State) (w : Word) : (s.setI w).started = s.started := rfl
@[simp] theorem State.setI_cfg (s : State) (w : Word) : (s.setI w).cfg = s.cfg := rfl
@[simp] theorem State.setI_rnd (s : State) (w : Word) : (s.setI w).rnd = s.rnd := rfl
@[simp] theorem State.setI_draws (s : State) (w : Word) : (s.setI w).draws = s.draws := rfl
@[simp] theorem State.setI_reg (s : State) (w : Word) (r : Reg) : (s.setI w).reg r = s.reg r := rfl

/-! ### setPc -/

@[simp] theorem State.setPc_mem (s : State) (w : Word) : (s.setPc w).mem = s.mem := rfl
@[simp] theorem State.setPc_v (s : State) (w : Word) : (s.setPc w).v = s.v := rfl
@[simp] theorem State.setPc_i (s : State) (w : Word) : (s.setPc w).i = s.i := rfl
@[simp] theorem State.setPc_pc (s : State) (w : Word) : (s.setPc w).pc = w := rfl
@[simp] theorem State.setPc_stk (s : State) (w : Word) : (s.setPc w).stk = s.stk := rfl
@[simp] theorem State.setPc_sp (s : State) (w : Word) : (s.setPc w).sp = s.sp := rfl
@[simp] theorem State.setPc_dt (s : State) (w : Word) : (s.setPc w).dt = s.dt := rfl
@[simp] theorem State.setPc_st (s : State) (w : Word) : (s.setPc w).st = s.st := rfl
@[simp] theorem State.setPc_px (s : State) (w : Word) : (s.setPc w).px = s.px := rfl
@[simp] theorem State.setPc_key (s : State) (w : Word) : (s.setPc w).key = s.key := rfl
@[simp] theorem State.setPc_latch (s : State) (w : Word) : (s.setPc w).latch = s.latch := rfl
@[simp] theorem State.setPc_wait (s : State) (w : Word) : (s.setPc w).wait = s.wait := rfl
@[simp] theorem State.setPc_err (s : State) (w : Word) : (s.setPc w).err = s.err := rfl
@[simp] theorem State.setPc_errInfo (s : State) (w : Word) : (s.setPc w).errInfo = s.errInfo := rfl
@[simp] theorem State.setPc_started (s : State) (w : Word) : (s.setPc w).started = s.started := rfl
@[simp] theorem State.setPc_cfg (s : State) (w : Word) : (s.setPc w).cfg = s.cfg := rfl
@[simp] theorem State.setPc_rnd (s : State) (w : Word) : (s.setPc w).rnd = s.rnd := rfl
@[simp] theorem State.setPc_draws (s : State) (w : Word) : (s.setPc w).draws = s.draws := rfl
@[simp] theorem State.setPc_reg (s : State) (w : Word) (r : Reg) : (s.setPc w).reg r = s.reg r := rfl

/-! ### setDt -/

@[simp] theorem State.setDt_mem (s : State) (b : Byte) : (s.setDt b).mem = s.mem := rfl
@[simp] theorem State.setDt_v (s : State) (b : Byte) : (s.setDt b).v = s.v := rfl
@[simp] theorem State.setDt_i (s : State) (b : Byte) : (s.setDt b).i = s.i := rfl
@[simp] theorem State.setDt_pc (s : State) (b : Byte) : (s.setDt b).pc = s.pc := rfl
@[simp] theorem State.setDt_stk (s : State) (b : Byte) : (s.setDt b).stk = s.stk := rfl
@[simp] theorem State.setDt_sp (s : State) (b : Byte) : (s.setDt b).sp = s.sp := rfl
@[simp] theorem State.setDt_dt (s : State) (b : Byte) : (s.setDt b).dt = b := rfl
@[simp] theorem State.setDt_st (s : State) (b : Byte) : (s.setDt b).st = s.st := rfl
@[simp] theorem State.setDt_px (s : State) (b : Byte) : (s.setDt b).px = s.px := rfl
@[simp] theorem State.setDt_key (s : State) (b : Byte) : (s.setDt b).key = s.key := rfl
@[simp] theorem State.setDt_latch (s : State) (b : Byte) : (s.setDt b).latch = s.latch := rfl
@[simp] theorem State.setDt_wait (s : State) (b : Byte) : (s.setDt b).wait = s.wait := rfl
@[simp] theorem State.setDt_err (s : State) (b : Byte) : (s.setDt b).err = s.err := rfl
@[simp] theorem State.setDt_errInfo (s : State) (b : Byte) : (s.setDt b).errInfo = s.errInfo := rfl
@[simp] theorem State.setDt_started (s : State) (b : Byte) : (s.setDt b).started = s.started := rfl
@[simp] theorem State.setDt_cfg (s : State) (b : Byte) : (s.setDt b).cfg = s.cfg := rfl
@[simp] theorem State.setDt_rnd (s : State) (b : Byte) : (s.setDt b).rnd = s.rnd := rfl
@[simp] theorem State.setDt_draws (s : State) (b : Byte) : (s.setDt b).draws = s.draws := rfl
@[simp] theorem State.setDt_reg (s : State) (b : Byte) (r : Reg) : (s.setDt b).reg r = s.reg r := rfl

/-! ### setSt -/

@[simp] theorem State.setSt_mem (s : State) (b : Byte) : (s.setSt b).mem = s.mem := rfl
@[simp] theorem State.setSt_v (s : State) (b : Byte) : (s.setSt b).v = s.v := rfl
@[simp] theorem State.setSt_i (s : State) (b : Byte) : (s.setSt b).i = s.i := rfl
@[simp] theorem State.setSt_pc (s : State) (b : Byte) : (s.setSt b).pc = s.pc := rfl
@[simp] theorem State.setSt_stk (s : State) (b : Byte) : (s.setSt b).stk = s.stk := rfl
@[simp] theorem State.setSt_sp (s : State) (b : Byte) : (s.setSt b).sp = s.sp := rfl
@[simp] theorem State.setSt_dt (s : State) (b : Byte) : (s.setSt b).dt = s.dt := rfl
@[simp] theorem State.setSt_st (s : State) (b : Byte) : (s.setSt b).st = b := rfl
@[simp] theorem State.setSt_px (s : State) (b : Byte) : (s.setSt b).px = s.px := rfl
@[simp] theorem State.setSt_key (s : State) (b : Byte) : (s.setSt b).key = s.key := rfl
@[simp] theorem State.setSt_latch (s : State) (b : Byte) : (s.setSt b).latch = s.latch := rfl
@[simp] theorem State.setSt_wait (s : State) (b : Byte) : (s.setSt b).wait = s.wait := rfl
@[simp] theorem State.setSt_err (s : State) (b : Byte) : (s.setSt b).err = s.err := rfl
@[simp] theorem State.setSt_errInfo (s : State) (b : Byte) : (s.setSt b).errInfo = s.errInfo := rfl
@[simp] theorem State.setSt_started (s : State) (b : Byte) : (s.setSt b).started = s.started := rfl
@[simp] theorem State.setSt_cfg (s : State) (b : Byte) : (s.setSt b).cfg = s.cfg := rfl
@[simp] theorem State.setSt_rnd (s : State) (b : Byte) : (s.setSt b).rnd = s.rnd := rfl
@[simp] theorem State.setSt_draws (s : State) (b : Byte) : (s.setSt b).draws = s.draws := rfl
@[simp] theorem State.setSt_reg (s : State) (b : Byte) (r : Reg) : (s.setSt b).reg r = s.reg r := rfl

/-! ### setPx -/

@[simp] theorem State.setPx_mem (s : State) (p : Display) : (s.setPx p).mem = s.mem := rfl
@[simp] theorem State.setPx_v (s : State) (p : Display) : (s.setPx p).v = s.v := rfl
@[simp] theorem State.setPx_i (s : State) (p : Display) : (s.setPx p).i = s.i := rfl
@[simp] theorem State.setPx_pc (s : State) (p : Display) : (s.setPx p).pc = s.pc := rfl
@[simp] theorem State.setPx_stk (s : State) (p : Display) : (s.setPx p).stk = s.stk := rfl
@[simp] theorem State.setPx_sp (s : State) (p : Display) : (s.setPx p).sp = s.sp := rfl
@[simp] theorem State.setPx_dt (s : State) (p : Display) : (s.setPx p).dt = s.dt := rfl
@[simp] theorem State.setPx_st (s : State) (p : Display) : (s.setPx p).st = s.st := rfl
@[simp] theorem State.setPx_px (s : State) (p : Display) : (s.setPx p).px = p := rfl
@[simp] theorem State.setPx_key (s : State) (p : Display) : (s.setPx p).key = s.key := rfl
@[simp] theorem State.setPx_latch (s : State) (p : Display) : (s.setPx p).latch = s.latch := rfl
@[simp] theorem State.setPx_wait (s : State) (p : Display) : (s.setPx p).wait = s.wait := rfl
@[simp] theorem State.setPx_err (s : State) (p : Display) : (s.setPx p).err = s.err := rfl
@[simp] theorem State.setPx_errInfo (s : State) (p : Display) : (s.setPx p).errInfo = s.errInfo := rfl
@[simp] theorem State.setPx_started (s : State) (p : Display) : (s.setPx p).started = s.started := rfl
@[simp] theorem State.setPx_cfg (s : State) (p : Display) : (s.setPx p).cfg = s.cfg := rfl
@[simp] theorem State.setPx_rnd (s : State) (p : Display) : (s.setPx p).rnd = s.rnd := rfl
@[simp] theorem State.setPx_draws (s : State) (p : Display) : (s.setPx p).draws = s.draws := rfl
@[simp] theorem State.setPx_reg (s : State) (p : Display) (r : Reg) : (s.setPx p).reg r = s.reg r := rfl

/-! ### setMem -/

@[simp] theorem State.setMem_mem (s : State) (m : Memory) : (s.setMem m).mem = m := rfl
@[simp] theorem State.setMem_v (s : State) (m : Memory) : (s.setMem m).v = s.v := rfl
@[simp] theorem State.setMem_i (s : State) (m : Memory) : (s.setMem m).i = s.i := rfl
@[simp] theorem State.setMem_pc (s : State) (m : Memory) : (s.setMem m).pc = s.pc := rfl
@[simp] theorem State.setMem_stk (s : State) (m : Memory) : (s.setMem m).stk = s.stk := rfl
@[simp] theorem State.setMem_sp (s : State) (m : Memory) : (s.setMem m).sp = s.sp := rfl
@[simp] theorem State.setMem_dt (s : State) (m : Memory) : (s.setMem m).dt = s.dt := rfl
@[simp] theorem State.setMem_st (s : State) (m : Memory) : (s.setMem m).st = s.st := rfl
@[simp] theorem State.setMem_px (s : State) (m : Memory) : (s.setMem m).px = s.px := rfl
@[simp] theorem State.setMem_key (s : State) (m : Memory) : (s.setMem m).key = s.key := rfl
@[simp] theorem State.setMem_latch (s : State) (m : Memory) : (s.setMem m).latch = s.latch := rfl
@[simp] theorem State.setMem_wait (s : State) (m : Memory) : (s.setMem m).wait = s.wait := rfl
@[simp] theorem State.setMem_err (s : State) (m : Memory) : (s.setMem m).err = s.err := rfl
@[simp] theorem State.setMem_errInfo (s : State) (m : Memory) : (s.setMem m).errInfo = s.errInfo := rfl
@[simp] theorem State.setMem_started (s : State) (m : Memory) : (s.setMem m).started = s.started := rfl
@[simp] theorem State.setMem_cfg (s : State) (m : Memory) : (s.setMem m).cfg = s.cfg := rfl
@[simp] theorem State.setMem_rnd (s : State) (m : Memory) : (s.setMem m).rnd = s.rnd := rfl
@[simp] theorem State.setMem_draws (s : State) (m : Memory) : (s.setMem m).draws = s.draws := rfl
@[simp] theorem State.setMem_reg (s : State) (m : Memory) (r : Reg) : (s.setMem m).reg r = s.reg r := rfl

/-! ### setWait -/

@[simp] theorem State.setWait_mem (s : State) (w : Option Reg) : (s.setWait w).mem = s.mem := rfl
@[simp] theorem State.setWait_v (s : State) (w : Option Reg) : (s.setWait w).v = s.v := rfl
@[simp] theorem State.setWait_i (s : State) (w : Option Reg) : (s.setWait w).i = s.i := rfl
@[simp] theorem State.setWait_pc (s : State) (w : Option Reg) : (s.setWait w).pc = s.pc := rfl
@[simp] theorem State.setWait_stk (s : State) (w : Option Reg) : (s.setWait w).stk = s.stk := rfl
@[simp] theorem State.setWait_sp (s : State) (w : Option Reg) : (s.setWait w).sp = s.sp := rfl
@[simp] theorem State.setWait_dt (s : State) (w : Option Reg) : (s.setWait w).dt = s.dt := rfl
@[simp] theorem State.setWait_st (s : State) (w : Option Reg) : (s.setWait w).st = s.st := rfl
@[simp] theorem State.setWait_px (s : State) (w : Option Reg) : (s.setWait w).px = s.px := rfl
@[simp] theorem State.setWait_key (s : State) (w : Option Reg) : (s.setWait w).key = s.key := rfl
@[simp] theorem State.setWait_latch (s : State) (w : Option Reg) : (s.setWait w).latch = s.latch := rfl
@[simp] theorem State.setWait_wait (s : State) (w : Option Reg) : (s.setWait w).wait = w := rfl
@[simp] theorem State.setWait_err (s : State) (w : Option Reg) : (s.setWait w).err = s.err := rfl
@[simp] theorem State.setWait_errInfo (s : State) (w : Option Reg) : (s.setWait w).errInfo = s.errInfo := rfl
@[simp] theorem State.setWait_started (s : State) (w : Option Reg) : (s.setWait w).started = s.started := rfl
@[simp] theorem State.setWait_cfg (s : State) (w : Option Reg) : (s.setWait w).cfg = s.cfg := rfl
@[simp] theorem State.setWait_rnd (s : State) (w : Option Reg) : (s.setWait w).rnd = s.rnd := rfl
@[simp] theorem State.setWait_draws (s : State) (w : Option Reg) : (s.setWait w).draws = s.draws := rfl
@[simp] theorem State.setWait_reg (s : State) (w : Option Reg) (r : Reg) : (s.setWait w).reg r = s.reg r := rfl

/-! ### setLatch -/

@[simp] theorem State.setLatch_mem (s : State) (k : Option Key) : (s.setLatch k).mem = s.mem := rfl
@[simp] theorem State.setLatch_v (s : State) (k : Option Key) : (s.setLatch k).v = s.v := rfl
@[simp] theorem State.setLatch_i (s : State) (k : Option Key) : (s.setLatch k).i = s.i := rfl
@[simp] theorem State.setLatch_pc (s : State) (k : Option Key) : (s.setLatch k).pc = s.pc := rfl
@[simp] theorem State.setLatch_stk (s : State) (k : Option Key) : (s.setLatch k).stk = s.stk := rfl
@[simp] theorem State.setLatch_sp (s : State) (k : Option Key) : (s.setLatch k).sp = s.sp := rfl
@[simp] theorem State.setLatch_dt (s : State) (k : Option Key) : (s.setLatch k).dt = s.dt := rfl
@[simp] theorem State.setLatch_st (s : State) (k : Option Key) : (s.setLatch k).st = s.st := rfl
@[simp] theorem State.setLatch_px (s : State) (k : Option Key) : (s.setLatch k).px = s.px := rfl
@[simp] theorem State.setLatch_key (s : State) (k : Option Key) : (s.setLatch k).key = s.key := rfl
@[simp] theorem State.setLatch_latch (s : State) (k : Option Key) : (s.setLatch k).latch = k := rfl
@[simp] theorem State.setLatch_wait (s : State) (k : Option Key) : (s.setLatch k).wait = s.wait := rfl
@[simp] theorem State.setLatch_err (s : State) (k : Option Key) : (s.setLatch k).err = s.err := rfl
@[simp] theorem State.setLatch_errInfo (s : State) (k : Option Key) : (s.setLatch k).errInfo = s.errInfo := rfl
@[simp] theorem State.setLatch_started (s : State) (k : Option Key) : (s.setLatch k).started = s.started := rfl
@[simp] theorem State.setLatch_cfg (s : State) (k : Option Key) : (s.setLatch k).cfg = s.cfg := rfl
@[simp] theorem State.setLatch_rnd (s : State) (k : Option Key) : (s.setLatch k).rnd = s.rnd := rfl
@[simp] theorem State.setLatch_draws (s : State) (k : Option Key) : (s.setLatch k).draws = s.draws := rfl
@[simp] theorem State.setLatch_reg (s : State) (k : Option Key) (r : Reg) : (s.setLatch k).reg r = s.reg r := rfl

/-! ### raise -/

@[simp] theorem State.raise_mem (s : State) (f : Fatal) : (s.raise f).mem = s.mem := rfl
@[simp] theorem State.raise_v (s : State) (f : Fatal) : (s.raise f).v = s.v := rfl
@[simp] theorem State.raise_i (s : State) (f : Fatal) : (s.raise f).i = s.i := rfl
@[simp] theorem State.raise_pc (s : State) (f : Fatal) : (s.raise f).pc = s.pc := rfl
@[simp] theorem State.raise_stk (s : State) (f : Fatal) : (s.raise f).stk = s.stk := rfl
@[simp] theorem State.raise_sp (s : State) (f : Fatal) : (s.raise f).sp = s.sp := rfl
@[simp] theorem State.raise_dt (s : State) (f : Fatal) : (s.raise f).dt = s.dt := rfl
@[simp] theorem State.raise_st (s : State) (f : Fatal) : (s.raise f).st = s.st := rfl
@[simp] theorem State.raise_px (s : State) (f : Fatal) : (s.raise f).px = s.px := rfl
@[simp] theorem State.raise_key (s : State) (f : Fatal) : (s.raise f).key = s.key := rfl
@[simp] theorem State.raise_latch (s : State) (f : Fatal) : (s.raise f).latch = s.latch := rfl
@[simp] theorem State.raise_wait (s : State) (f : Fatal) : (s.raise f).wait = s.wait := rfl
@[simp] theorem State.raise_err (s : State) (f : Fatal) : (s.raise f).err = f.err := rfl
@[simp] theorem State.raise_errInfo (s : State) (f : Fatal) : (s.raise f).errInfo = f.info := rfl
@[simp] theorem State.raise_started (s : State) (f : Fatal) : (s.raise f).started = s.started := rfl
@[simp] theorem State.raise_cfg (s : State) (f : Fatal) : (s.raise f).cfg = s.cfg := rfl
@[simp] theorem State.raise_rnd (s : State) (f : Fatal) : (s.raise f).rnd = s.rnd := rfl
@[simp] theorem State.raise_draws (s : State) (f : Fatal) : (s.raise f).draws = s.draws := rfl
@[simp] theorem State.raise_reg (s : State) (f : Fatal) (r : Reg) : (s.raise f).reg r = s.reg r := rfl

/-! ### press -/

@[simp] theorem State.press_mem (s : State) (k : Key) : (s.press k).mem = s.mem := rfl
@[simp] theorem State.press_v (s : State) (k : Key) : (s.press k).v = s.v := rfl
@[simp] theorem State.press_i (s : State) (k : Key) : (s.press k).i = s.i := rfl
@[simp] theorem State.press_pc (s : State) (k : Key) : (s.press k).pc = s.pc := rfl
@[simp] theorem State.press_stk (s : State) (k : Key) : (s.press k).stk = s.stk := rfl
@[simp] theorem State.press_sp (s : State) (k : Key) : (s.press k).sp = s.sp := rfl
@[simp] theorem State.press_dt (s : State) (k : Key) : (s.press k).dt = s.dt := rfl
@[simp] theorem State.press_st (s : State) (k : Key) : (s.press k).st = s.st := rfl
@[simp] theorem State.press_px (s : State) (k : Key) : (s.press k).px = s.px := rfl
@[simp] theorem State.press_key (s : State) (k : Key) : (s.press k).key = onlyKey k := rfl
@[simp] theorem State.press_latch (s : State) (k : Key) : (s.press k).latch = some k := rfl
@[simp] theorem State.press_wait (s : State) (k : Key) : (s.press k).wait = s.wait := rfl
@[simp] theorem State.press_err (s : State) (k : Key) : (s.press k).err = s.err := rfl
@[simp] theorem State.press_errInfo (s : State) (k : Key) : (s.press k).errInfo = s.errInfo := rfl
@[simp] theorem State.press_started (s : State) (k : Key) : (s.press k).started = s.started := rfl
@[simp] theorem State.press_cfg (s : State) (k : Key) : (s.press k).cfg = s.cfg := rfl
@[simp] theorem State.press_rnd (s : State) (k : Key) : (s.press k).rnd = s.rnd := rfl
@[simp] theorem State.press_draws (s : State) (k : Key) : (s.press k).draws = s.draws := rfl
@[simp] theorem State.press_reg (s : State) (k : Key) (r : Reg) : (s.press k).reg r = s.reg r := rfl

/-! ### advancePc -/

@[simp] theorem State.advancePc_mem (s : State) : (s.advancePc).mem = s.mem := rfl
@[simp] theorem State.advancePc_v (s : State) : (s.advancePc).v = s.v := rfl
@[simp] theorem State.advancePc_i (s : State) : (s.advancePc).i = s.i := rfl
@[simp] theorem State.advancePc_pc (s : State) : (s.advancePc).pc = s.pc + 2#16 := rfl
@[simp] theorem State.advancePc_stk (s : State) : (s.advancePc).stk = s.stk := rfl
@[simp] theorem State.advancePc_sp (s : State) : (s.advancePc).sp = s.sp := rfl
@[simp] theorem State.advancePc_dt (s : State) : (s.advancePc).dt = s.dt := rfl
@[simp] theorem State.advancePc_st (s : State) : (s.advancePc).st = s.st := rfl
@[simp] theorem State.advancePc_px (s : State) : (s.advancePc).px = s.px := rfl
@[simp] theorem State.advancePc_key (s : State) : (s.advancePc).key = s.key := rfl
@[simp] theorem State.advancePc_latch (s : State) : (s.advancePc).latch = s.latch := rfl
@[simp] theorem State.advancePc_wait (s : State) : (s.advancePc).wait = s.wait := rfl
@[simp] theorem State.advancePc_err (s : State) : (s.advancePc).err = s.err := rfl
@[simp] theorem State.advancePc_errInfo (s : State) : (s.advancePc).errInfo = s.errInfo := rfl
@[simp] theorem State.advancePc_started (s : State) : (s.advancePc).started = s.started := rfl
@[simp] theorem State.advancePc_cfg (s : State) : (s.advancePc).cfg = s.cfg := rfl
@[simp] theorem State.advancePc_rnd (s : State) : (s.advancePc).rnd = s.rnd := rfl
@[simp] theorem State.advancePc_draws (s : State) : (s.advancePc).draws = s.draws := rfl
@[simp] theorem State.advancePc_reg (s : State) (r : Reg) : (s.advancePc).reg r = s.reg r := rfl

/-! ### start -/

@[simp] theorem State.start_mem (s : State) : (s.start).mem = s.mem := rfl
@[simp] theorem State.start_v (s : State) : (s.start).v = s.v := rfl
@[simp] theorem State.start_i (s : State) : (s.start).i = s.i := rfl
@[simp] theorem State.start_pc (s : State) : (s.start).pc = s.pc := rfl
@[simp] theorem State.start_stk (s : State) : (s.start).stk = s.stk := rfl
@[simp] theorem State.start_sp (s : State) : (s.start).sp = s.sp := rfl
@[simp] theorem State.start_dt (s : State) : (s.start).dt = s.dt := rfl
@[simp] theorem State.start_st (s : State) : (s.start).st = s.st := rfl
@[simp] theorem State.start_px (s : State) : (s.start).px = s.px := rfl
@[simp] theorem State.start_key (s : State) : (s.start).key = s.key := rfl
@[simp] theorem State.start_latch (s : State) : (s.start).latch = s.latch := rfl
@[simp] theorem State.start_wait (s : State) : (s.start).wait = s.wait := rfl
@[simp] theorem State.start_err (s : State) : (s.start).err = s.err := rfl
@[simp] theorem State.start_errInfo (s : State) : (s.start).errInfo = s.errInfo := rfl
@[simp] theorem State.start_started (s : State) : (s.start).started = true := rfl
@[simp] theorem State.start_cfg (s : State) : (s.start).cfg = s.cfg := rfl
@[simp] theorem State.start_rnd (s : State) : (s.start).rnd = s.rnd := rfl
@[simp] theorem State.start_draws (s : State) : (s.start).draws = s.draws := rfl
@[simp] theorem State.start_reg (s : State) (r : Reg) : (s.start).reg r = s.reg r := rfl

/-! ### takeDraw -/

@[simp] theorem State.takeDraw_mem (s : State) (d : Byte) : (s.takeDraw d).mem = s.mem := rfl
@[simp] theorem State.takeDraw_v (s : State) (d : Byte) : (s.takeDraw d).v = s.v := rfl
@[simp] theorem State.takeDraw_i (s : State) (d : Byte) : (s.takeDraw d).i = s.i := rfl
@[simp] theorem State.takeDraw_pc (s : State) (d : Byte) : (s.takeDraw d).pc = s.pc := rfl
@[simp] theorem State.takeDraw_stk (s : State) (d : Byte) : (s.takeDraw d).stk = s.stk := rfl
@[simp] theorem State.takeDraw_sp (s : State) (d : Byte) : (s.takeDraw d).sp = s.sp := rfl
@[simp] theorem State.takeDraw_dt (s : State) (d : Byte) : (s.takeDraw d).dt = s.dt := rfl
@[simp] theorem State.takeDraw_st (s : State) (d : Byte) : (s.takeDraw d).st = s.st := rfl
@[simp] theorem State.takeDraw_px (s : State) (d : Byte) : (s.takeDraw d).px = s.px := rfl
@[simp] theorem State.takeDraw_key (s : State) (d : Byte) : (s.takeDraw d).key = s.key := rfl
@[simp] theorem State.takeDraw_latch (s : State) (d : Byte) : (s.takeDraw d).latch = s.latch := rfl
@[simp] theorem State.takeDraw_wait (s : State) (d : Byte) : (s.takeDraw d).wait = s.wait := rfl
@[simp] theorem State.takeDraw_err (s : State) (d : Byte) : (s.takeDraw d).err = s.err := rfl
@[simp] theorem State.takeDraw_errInfo (s : State) (d : Byte) : (s.takeDraw d).errInfo = s.errInfo := rfl
@[simp] theorem State.takeDraw_started (s : State) (d : Byte) : (s.takeDraw d).started = s.started := rfl
@[simp] theorem State.takeDraw_cfg (s : State) (d : Byte) : (s.takeDraw d).cfg = s.cfg := rfl
@[simp] theorem State.takeDraw_rnd (s : State) (d : Byte) : (s.takeDraw d).rnd = d := rfl
@[simp] theorem State.takeDraw_draws (s : State) (d : Byte) : (s.takeDraw d).draws = s.draws + 1 := rfl
@[simp] theorem State.takeDraw_reg (s : State) (d : Byte) (r : Reg) : (s.takeDraw d).reg r = s.reg r := rfl

/-! ### setStack -/

@[simp] theorem State.setStack_mem (s : State) (k : Vector Word 16) (n : Fin 17) : (s.setStack k n).mem = s.mem := rfl
@[simp] theorem State.setStack_v (s : State) (k : Vector Word 16) (n : Fin 17) : (s.setStack k n).v = s.v := rfl
@[simp] theorem State.setStack_i (s : State) (k : Vector Word 16) (n : Fin 17) : (s.setStack k n).i = s.i := rfl
@[simp] theorem State.setStack_pc (s : State) (k : Vector Word 16) (n : Fin 17) : (s.setStack k n).pc = s.pc := rfl
@[simp] theorem State.setStack_stk (s : State) (k : Vector Word 16) (n : Fin 17) : (s.setStack k n).stk = k := rfl
@[simp] theorem State.setStack_sp (s : State) (k : Vector Word 16) (n : Fin 17) : (s.setStack k n).sp = n := rfl
@[simp] theorem State.setStack_dt (s : State) (k : Vector Word 16) (n : Fin 17) : (s.setStack k n).dt = s.dt := rfl
@[simp] theorem State.setStack_st (s : State) (k : Vector Word 16) (n : Fin 17) : (s.setStack k n).st = s.st := rfl
@[simp] theorem State.setStack_px (s : State) (k : Vector Word 16) (n : Fin 17) : (s.setStack k n).px = s.px := rfl
@[simp] theorem State.setStack_key (s : State) (k : Vector Word 16) (n : Fin 17) : (s.setStack k n).key = s.key := rfl
@[simp] theorem State.setStack_latch (s : State) (k : Vector Word 16) (n : Fin 17) : (s.setStack k n).latch = s.latch := rfl
@[simp] theorem State.setStack_wait (s : State) (k : Vector Word 16) (n : Fin 17) : (s.setStack k n).wait = s.wait := rfl
@[simp] theorem State.setStack_err (s : State) (k : Vector Word 16) (n : Fin 17) : (s.setStack k n).err = s.err := rfl
@[simp] theorem State.setStack_errInfo (s : State) (k : Vector Word 16) (n : Fin 17) : (s.setStack k n).errInfo = s.errInfo := rfl
@[simp] theorem State.setStack_started (s : State) (k : Vector Word 16) (n : Fin 17) : (s.setStack k n).started = s.started := rfl
@[simp] theorem State.setStack_cfg (s : State) (k : Vector Word 16) (n : Fin 17) : (s.setStack k n).cfg = s.cfg := rfl
@[simp] theorem State.setStack_rnd (s : State) (k : Vector Word 16) (n : Fin 17) : (s.setStack k n).rnd = s.rnd := rfl
@[simp] theorem State.setStack_draws (s : State) (k : Vector Word 16) (n : Fin 17) : (s.setStack k n).draws = s.draws := rfl
@[simp] theorem State.setStack_reg (s : State) (k : Vector Word 16) (n : Fin 17) (r : Reg) : (s.setStack k n).reg r = s.reg r := rfl

/-! ### Registers -/

theorem State.reg_eq_iff (s t : State) : (∀ r, s.reg r = t.reg r) ↔ s.v = t.v := by
  constructor
  · intro h
    apply Vector.ext
    intro j hj
    have := h (BitVec.ofNat 4 j)
    simpa [State.reg, Nat.mod_eq_of_lt hj] using this
  · intro h r
    simp [State.reg, h]

@[simp] theorem State.setReg_reg_same (s : State) (x : Reg) (b : Byte) : (s.setReg x b).reg x = b := by
  simp [State.reg]

theorem State.setReg_reg_ne (s : State) {x r : Reg} (b : Byte) (h : r ≠ x) : (s.setReg x b).reg r = s.reg r := by
  have : x.toNat ≠ r.toNat := fun e => h (BitVec.eq_of_toNat_eq e.symm)
  simp [State.reg, this]

/-- What a register reads after a write to one. -/
theorem State.setReg_reg (s : State) (x r : Reg) (b : Byte) :
    (s.setReg x b).reg r = if r = x then b else s.reg r := by
  by_cases h : r = x
  · simp [h]
  · simp [h, State.setReg_reg_ne]

/-! ### Result, then flag (R150) -/

/-- What a register reads after a result and a flag: the flag survives in `VF`. -/
theorem State.setRegThenFlag_reg (s : State) (x r : Reg) (b f : Byte) :
    (s.setRegThenFlag x b f).reg r = if r = vfIndex then f else if r = x then b else s.reg r := by
  simp [State.setRegThenFlag, State.setReg_reg]

@[simp] theorem State.setRegThenFlag_mem (s : State) (x : Reg) (b c : Byte) : (s.setRegThenFlag x b c).mem = s.mem := rfl
@[simp] theorem State.setRegThenFlag_i (s : State) (x : Reg) (b c : Byte) : (s.setRegThenFlag x b c).i = s.i := rfl
@[simp] theorem State.setRegThenFlag_pc (s : State) (x : Reg) (b c : Byte) : (s.setRegThenFlag x b c).pc = s.pc := rfl
@[simp] theorem State.setRegThenFlag_stk (s : State) (x : Reg) (b c : Byte) : (s.setRegThenFlag x b c).stk = s.stk := rfl
@[simp] theorem State.setRegThenFlag_sp (s : State) (x : Reg) (b c : Byte) : (s.setRegThenFlag x b c).sp = s.sp := rfl
@[simp] theorem State.setRegThenFlag_dt (s : State) (x : Reg) (b c : Byte) : (s.setRegThenFlag x b c).dt = s.dt := rfl
@[simp] theorem State.setRegThenFlag_st (s : State) (x : Reg) (b c : Byte) : (s.setRegThenFlag x b c).st = s.st := rfl
@[simp] theorem State.setRegThenFlag_px (s : State) (x : Reg) (b c : Byte) : (s.setRegThenFlag x b c).px = s.px := rfl
@[simp] theorem State.setRegThenFlag_key (s : State) (x : Reg) (b c : Byte) : (s.setRegThenFlag x b c).key = s.key := rfl
@[simp] theorem State.setRegThenFlag_latch (s : State) (x : Reg) (b c : Byte) : (s.setRegThenFlag x b c).latch = s.latch := rfl
@[simp] theorem State.setRegThenFlag_wait (s : State) (x : Reg) (b c : Byte) : (s.setRegThenFlag x b c).wait = s.wait := rfl
@[simp] theorem State.setRegThenFlag_err (s : State) (x : Reg) (b c : Byte) : (s.setRegThenFlag x b c).err = s.err := rfl
@[simp] theorem State.setRegThenFlag_errInfo (s : State) (x : Reg) (b c : Byte) : (s.setRegThenFlag x b c).errInfo = s.errInfo := rfl
@[simp] theorem State.setRegThenFlag_started (s : State) (x : Reg) (b c : Byte) : (s.setRegThenFlag x b c).started = s.started := rfl
@[simp] theorem State.setRegThenFlag_cfg (s : State) (x : Reg) (b c : Byte) : (s.setRegThenFlag x b c).cfg = s.cfg := rfl
@[simp] theorem State.setRegThenFlag_rnd (s : State) (x : Reg) (b c : Byte) : (s.setRegThenFlag x b c).rnd = s.rnd := rfl
@[simp] theorem State.setRegThenFlag_draws (s : State) (x : Reg) (b c : Byte) : (s.setRegThenFlag x b c).draws = s.draws := rfl

/-! ### The skip (R126) -/

theorem State.skipIf_pc (s : State) (p : Bool) : (s.skipIf p).pc = if p then s.pc + 2#16 else s.pc := by
  cases p <;> rfl

@[simp] theorem State.skipIf_mem (s : State) (p : Bool) : (s.skipIf p).mem = s.mem := by cases p <;> rfl
@[simp] theorem State.skipIf_v (s : State) (p : Bool) : (s.skipIf p).v = s.v := by cases p <;> rfl
@[simp] theorem State.skipIf_i (s : State) (p : Bool) : (s.skipIf p).i = s.i := by cases p <;> rfl
@[simp] theorem State.skipIf_stk (s : State) (p : Bool) : (s.skipIf p).stk = s.stk := by cases p <;> rfl
@[simp] theorem State.skipIf_sp (s : State) (p : Bool) : (s.skipIf p).sp = s.sp := by cases p <;> rfl
@[simp] theorem State.skipIf_dt (s : State) (p : Bool) : (s.skipIf p).dt = s.dt := by cases p <;> rfl
@[simp] theorem State.skipIf_st (s : State) (p : Bool) : (s.skipIf p).st = s.st := by cases p <;> rfl
@[simp] theorem State.skipIf_px (s : State) (p : Bool) : (s.skipIf p).px = s.px := by cases p <;> rfl
@[simp] theorem State.skipIf_key (s : State) (p : Bool) : (s.skipIf p).key = s.key := by cases p <;> rfl
@[simp] theorem State.skipIf_latch (s : State) (p : Bool) : (s.skipIf p).latch = s.latch := by cases p <;> rfl
@[simp] theorem State.skipIf_wait (s : State) (p : Bool) : (s.skipIf p).wait = s.wait := by cases p <;> rfl
@[simp] theorem State.skipIf_err (s : State) (p : Bool) : (s.skipIf p).err = s.err := by cases p <;> rfl
@[simp] theorem State.skipIf_errInfo (s : State) (p : Bool) : (s.skipIf p).errInfo = s.errInfo := by cases p <;> rfl
@[simp] theorem State.skipIf_started (s : State) (p : Bool) : (s.skipIf p).started = s.started := by cases p <;> rfl
@[simp] theorem State.skipIf_cfg (s : State) (p : Bool) : (s.skipIf p).cfg = s.cfg := by cases p <;> rfl
@[simp] theorem State.skipIf_rnd (s : State) (p : Bool) : (s.skipIf p).rnd = s.rnd := by cases p <;> rfl
@[simp] theorem State.skipIf_draws (s : State) (p : Bool) : (s.skipIf p).draws = s.draws := by cases p <;> rfl
@[simp] theorem State.skipIf_reg (s : State) (p : Bool) (r : Reg) : (s.skipIf p).reg r = s.reg r := by cases p <;> rfl

end Sys2Proof.Machine
end

