-- ==== Sys2Proof/Laws/Ops.lean ====
section
/-! SUPPORT. For each shared operation, once, everything it can do: callers cite these and unfold nothing. -/

namespace Sys2Proof.Machine

/-! ### Checked accesses (R62, R63) -/

/-- A check passes, or it raises and the access leaves the address space. -/
theorem checkAccess_cases (base count : Nat) :
    (checkAccess base count = .ok () ∧ (count = 0 ∨ base + count ≤ 4096)) ∨
    (checkAccess base count = .error (.memoryBoundsError (BitVec.ofNat 16 (max base 4096))) ∧
      0 < count ∧ 4096 < base + count) := by
  unfold checkAccess
  split
  · rename_i h; exact .inr ⟨rfl, h⟩
  · rename_i h; exact .inl ⟨rfl, by omega⟩

theorem checkAccess_ok {base count : Nat} (h : count = 0 ∨ base + count ≤ 4096) : checkAccess base count = .ok () := by
  unfold checkAccess
  rw [if_neg (by omega)]

theorem checkAccess_error {base count : Nat} (h0 : 0 < count) (h : 4096 < base + count) :
    checkAccess base count = .error (.memoryBoundsError (BitVec.ofNat 16 (max base 4096))) := by
  unfold checkAccess
  rw [if_pos ⟨h0, h⟩]

theorem State.readBytes_ok (s : State) {base count : Nat} (h : count = 0 ∨ base + count ≤ 4096) :
    s.readBytes base count = .ok (s.mem.readList base count) := by
  simp [State.readBytes, checkAccess_ok h]

theorem State.readBytes_error (s : State) {base count : Nat} (h0 : 0 < count) (h : 4096 < base + count) :
    s.readBytes base count = .error (.memoryBoundsError (BitVec.ofNat 16 (max base 4096))) := by
  simp [State.readBytes, checkAccess_error h0 h]

theorem State.writeBytes_ok (s : State) {base : Nat} {bs : List Byte} (h : bs.length = 0 ∨ base + bs.length ≤ 4096) :
    s.writeBytes base bs = .ok (s.setMem (s.mem.writeList base bs)) := by
  simp [State.writeBytes, checkAccess_ok h]

theorem State.writeBytes_error (s : State) {base : Nat} {bs : List Byte} (h0 : 0 < bs.length)
    (h : 4096 < base + bs.length) :
    s.writeBytes base bs = .error (.memoryBoundsError (BitVec.ofNat 16 (max base 4096))) := by
  simp [State.writeBytes, checkAccess_error h0 h]

/-! ### The stack (R124, R125) -/

theorem State.push_ok (s : State) (w : Word) (h : s.sp.val < 16) :
    s.push w = .ok (s.setStack (s.stk.set s.sp.val w h) ⟨s.sp.val + 1, Nat.succ_lt_succ h⟩) := by
  simp [State.push, h]

theorem State.push_full (s : State) (w : Word) (h : s.sp.val = 16) : s.push w = .error (.stackOverflow w) := by
  simp [State.push, h]

theorem State.pop_ok (s : State) (h : s.sp.val ≠ 0) :
    s.pop = .ok (s.stk[s.sp.val - 1]'(by have := s.sp.isLt; omega),
      s.setStack s.stk ⟨s.sp.val - 1, by have := s.sp.isLt; omega⟩) := by
  simp [State.pop, h]

theorem State.pop_empty (s : State) (h : s.sp.val = 0) : s.pop = .error .stackUnderflow := by
  simp [State.pop, h]

/-! ### Runs of registers (R184, R185) -/

/-- The fold of `setRegsUpTo` over `n` registers. -/
theorem setRegs_fold_reg (f : Nat → Byte) (n : Nat) (hn : n ≤ 16) (s : State) (r : Reg) :
    ((List.range n).foldl (fun t k => t.setReg (BitVec.ofNat 4 k) (f k)) s).reg r =
      if r.toNat < n then f r.toNat else s.reg r := by
  induction n with
  | zero => simp
  | succ n ih =>
    rw [List.range_succ, List.foldl_append, List.foldl_cons, List.foldl_nil, State.setReg_reg, ih (by omega)]
    by_cases h : r = BitVec.ofNat 4 n
    · have e : r.toNat = n := by rw [h]; simp; omega
      rw [if_pos h, e, if_pos (by omega)]
    · have e : r.toNat ≠ n := fun e => h (by rw [← e]; simp)
      simp only [h, if_false]
      by_cases h2 : r.toNat < n
      · simp [h2, show r.toNat < n + 1 by omega]
      · simp [h2, show ¬ r.toNat < n + 1 by omega]

/-- The registers up to `x` read as `f` says, the others as before. -/
theorem State.setRegsUpTo_reg (s : State) (x r : Reg) (f : Nat → Byte) :
    (s.setRegsUpTo x f).reg r = if r.toNat ≤ x.toNat then f r.toNat else s.reg r := by
  have := x.isLt
  rw [State.setRegsUpTo, setRegs_fold_reg f (x.toNat + 1) (by omega)]
  simp

/-- Whatever a register write leaves alone, a run of register writes leaves alone. -/
theorem State.setRegsUpTo_keeps {α : Type} (g : State → α) (hg : ∀ s x b, g (State.setReg s x b) = g s)
    (s : State) (x : Reg) (f : Nat → Byte) : g (s.setRegsUpTo x f) = g s := by
  unfold State.setRegsUpTo
  generalize x.toNat + 1 = n
  induction n with
  | zero => rfl
  | succ n ih => rw [List.range_succ, List.foldl_append, List.foldl_cons, List.foldl_nil, hg, ih]

@[simp] theorem State.setRegsUpTo_mem (s : State) (x : Reg) (f : Nat → Byte) : (s.setRegsUpTo x f).mem = s.mem :=
  State.setRegsUpTo_keeps State.mem (fun _ _ _ => rfl) s x f
@[simp] theorem State.setRegsUpTo_i (s : State) (x : Reg) (f : Nat → Byte) : (s.setRegsUpTo x f).i = s.i :=
  State.setRegsUpTo_keeps State.i (fun _ _ _ => rfl) s x f
@[simp] theorem State.setRegsUpTo_pc (s : State) (x : Reg) (f : Nat → Byte) : (s.setRegsUpTo x f).pc = s.pc :=
  State.setRegsUpTo_keeps State.pc (fun _ _ _ => rfl) s x f
@[simp] theorem State.setRegsUpTo_stk (s : State) (x : Reg) (f : Nat → Byte) : (s.setRegsUpTo x f).stk = s.stk :=
  State.setRegsUpTo_keeps State.stk (fun _ _ _ => rfl) s x f
@[simp] theorem State.setRegsUpTo_sp (s : State) (x : Reg) (f : Nat → Byte) : (s.setRegsUpTo x f).sp = s.sp :=
  State.setRegsUpTo_keeps State.sp (fun _ _ _ => rfl) s x f
@[simp] theorem State.setRegsUpTo_dt (s : State) (x : Reg) (f : Nat → Byte) : (s.setRegsUpTo x f).dt = s.dt :=
  State.setRegsUpTo_keeps State.dt (fun _ _ _ => rfl) s x f
@[simp] theorem State.setRegsUpTo_st (s : State) (x : Reg) (f : Nat → Byte) : (s.setRegsUpTo x f).st = s.st :=
  State.setRegsUpTo_keeps State.st (fun _ _ _ => rfl) s x f
@[simp] theorem State.setRegsUpTo_px (s : State) (x : Reg) (f : Nat → Byte) : (s.setRegsUpTo x f).px = s.px :=
  State.setRegsUpTo_keeps State.px (fun _ _ _ => rfl) s x f
@[simp] theorem State.setRegsUpTo_key (s : State) (x : Reg) (f : Nat → Byte) : (s.setRegsUpTo x f).key = s.key :=
  State.setRegsUpTo_keeps State.key (fun _ _ _ => rfl) s x f
@[simp] theorem State.setRegsUpTo_latch (s : State) (x : Reg) (f : Nat → Byte) : (s.setRegsUpTo x f).latch = s.latch :=
  State.setRegsUpTo_keeps State.latch (fun _ _ _ => rfl) s x f
@[simp] theorem State.setRegsUpTo_wait (s : State) (x : Reg) (f : Nat → Byte) : (s.setRegsUpTo x f).wait = s.wait :=
  State.setRegsUpTo_keeps State.wait (fun _ _ _ => rfl) s x f
@[simp] theorem State.setRegsUpTo_err (s : State) (x : Reg) (f : Nat → Byte) : (s.setRegsUpTo x f).err = s.err :=
  State.setRegsUpTo_keeps State.err (fun _ _ _ => rfl) s x f
@[simp] theorem State.setRegsUpTo_errInfo (s : State) (x : Reg) (f : Nat → Byte) : (s.setRegsUpTo x f).errInfo = s.errInfo :=
  State.setRegsUpTo_keeps State.errInfo (fun _ _ _ => rfl) s x f
@[simp] theorem State.setRegsUpTo_started (s : State) (x : Reg) (f : Nat → Byte) : (s.setRegsUpTo x f).started = s.started :=
  State.setRegsUpTo_keeps State.started (fun _ _ _ => rfl) s x f
@[simp] theorem State.setRegsUpTo_cfg (s : State) (x : Reg) (f : Nat → Byte) : (s.setRegsUpTo x f).cfg = s.cfg :=
  State.setRegsUpTo_keeps State.cfg (fun _ _ _ => rfl) s x f
@[simp] theorem State.setRegsUpTo_rnd (s : State) (x : Reg) (f : Nat → Byte) : (s.setRegsUpTo x f).rnd = s.rnd :=
  State.setRegsUpTo_keeps State.rnd (fun _ _ _ => rfl) s x f
@[simp] theorem State.setRegsUpTo_draws (s : State) (x : Reg) (f : Nat → Byte) : (s.setRegsUpTo x f).draws = s.draws :=
  State.setRegsUpTo_keeps State.draws (fun _ _ _ => rfl) s x f

@[simp] theorem State.regsUpTo_length (s : State) (x : Reg) : (s.regsUpTo x).length = x.toNat + 1 := by
  simp [State.regsUpTo]

theorem State.regsUpTo_getElem (s : State) (x : Reg) (k : Nat) (h : k ≤ x.toNat) :
    (s.regsUpTo x)[k]'(by simp; omega) = s.reg (BitVec.ofNat 4 k) := by
  simp [State.regsUpTo]

@[simp] theorem bcdDigits_length (b : Byte) : (bcdDigits b).length = 3 := rfl

/-! ### The fetch (R121) -/

theorem State.fetchWord_ok (s : State) (h : s.pc.toNat ≤ 4094) :
    s.fetchWord = .ok (wordOfBytes (s.mem.read s.pc.toNat) (s.mem.read (s.pc.toNat + 1))) := by
  simp [State.fetchWord, checkAccess_ok (show 2 = 0 ∨ s.pc.toNat + 2 ≤ 4096 by omega)]

theorem State.fetchWord_error (s : State) (h : 4094 < s.pc.toNat) :
    s.fetchWord = .error (.memoryBoundsError (BitVec.ofNat 16 (max s.pc.toNat 4096))) := by
  simp [State.fetchWord, checkAccess_error (show 0 < 2 by omega) (show 4096 < s.pc.toNat + 2 by omega)]

/-! ### The keypad (R225, R227, R228) -/

theorem State.keyDown_of_lt (s : State) {b : Byte} (h : b.toNat < 16) : s.keyDown b = s.key[b.toNat] := by
  simp [State.keyDown, h]

theorem State.keyDown_of_ge (s : State) {b : Byte} (h : 16 ≤ b.toNat) : s.keyDown b = false := by
  simp [State.keyDown, Nat.not_lt.mpr h]

theorem onlyKey_getElem (k : Key) (j : Nat) (h : j < 16) : (onlyKey k)[j] = decide (j = k.toNat) := by
  by_cases e : j = k.toNat
  · simp [onlyKey, e]
  · have : k.toNat ≠ j := fun e' => e e'.symm
    simp [onlyKey, this, e]

theorem State.resolveWait_none (s : State) (x : Reg) (h : s.latch = none) : s.resolveWait x = s := by
  simp [State.resolveWait, h]

theorem State.resolveWait_some (s : State) (x : Reg) {k : Key} (h : s.latch = some k) :
    s.resolveWait x = ((s.setReg x (k.setWidth 8)).setLatch none).setWait none := by
  simp [State.resolveWait, h]

/-! ### The step (R120) -/

theorem stepOp_halted (rnd : Byte) (s : State) (h : s.err ≠ .noError) : stepOp rnd s = .next s := by
  simp [stepOp, h]

theorem stepOp_waiting (rnd : Byte) (s : State) (x : Reg) (h : s.err = .noError) (hw : s.wait = some x) :
    stepOp rnd s = .next (s.start.resolveWait x) := by
  simp [stepOp, h, hw]

theorem stepOp_running (rnd : Byte) (s : State) (h : s.err = .noError) (hw : s.wait = none) :
    stepOp rnd s = runInstr (s.start.takeDraw rnd) := by
  simp [stepOp, h, hw]

/-- What a step from RUN can do: the fetch raises, or the word it fetches is executed with `PC` advanced. -/
theorem runInstr_cases (s : State) :
    (4094 < s.pc.toNat ∧
      runInstr s = .next (s.raise (.memoryBoundsError (BitVec.ofNat 16 (max s.pc.toNat 4096))))) ∨
    (s.pc.toNat ≤ 4094 ∧
      runInstr s = execWord (wordOfBytes (s.mem.read s.pc.toNat) (s.mem.read (s.pc.toNat + 1))) s.advancePc) := by
  by_cases h : s.pc.toNat ≤ 4094
  · exact .inr ⟨h, by simp [runInstr, State.fetchWord_ok s h]⟩
  · exact .inl ⟨by omega, by simp [runInstr, State.fetchWord_error s (by omega)]⟩

theorem execWord_ok {w : Word} {i : Instr} (s : State) (h : decode w = .ok i) : execWord w s = exec i s := by
  simp [execWord, h]

theorem execWord_error {w : Word} {e : DecodeReject} (s : State) (h : decode w = .error e) :
    execWord w s = .next (s.raise (.decodeError w)) := by
  simp [execWord, h]

/-! ### The driver's operations (R228, R231, R252) -/

theorem tickOp_halted (s : State) (h : s.err ≠ .noError) : tickOp s = s := by simp [tickOp, h]

theorem keyOp_halted (k : Key) (s : State) (h : s.err ≠ .noError) : keyOp k s = s := by simp [keyOp, h]

theorem loadOp_halted (bytes : List Byte) (s : State) (h : s.err ≠ .noError) : loadOp bytes s = s := by simp [loadOp, h]

theorem loadOp_started (bytes : List Byte) (s : State) (h : s.started = true) : loadOp bytes s = s := by simp [loadOp, h]

theorem loadOp_ok {bytes : List Byte} {s : State} (h : s.err = .noError) (hs : s.started = false)
    (hl : bytes.length ≤ 3584) : loadOp bytes s = s.setMem (s.mem.writeList 512 bytes) := by
  simp [loadOp, h, hs, Nat.not_lt.mpr hl]

theorem decrement_toNat (b : Byte) : (decrement b).toNat = b.toNat - 1 := by
  unfold decrement
  split
  · rename_i h; simp [h]
  · rename_i h
    have : b.toNat ≠ 0 := fun e => h (BitVec.eq_of_toNat_eq (by simpa using e))
    have := b.isLt
    rw [BitVec.toNat_sub_of_le (by rw [BitVec.le_def]; simp; omega)]
    simp

end Sys2Proof.Machine
end

