-- ==== Sys2Proof/Laws/PerInstr.lean ====
section
/-! SUPPORT. Statements made of every instruction, one lemma per constructor. -/

namespace Sys2Proof.Laws.EncodeMatchesTable

/-- The encoder's word, masked as the opcode table masks the instruction's row, is the row's match
(opcode_table.json; 95_test_vectors.md T61: "when a word is matched as (`w` & `mask`) = `match`"). -/
def Statement (i : Instr) : Prop := encode i &&& (tableRow i).2 = (tableRow i).1

theorem packA_mask (op : BitVec 4) (nnn : Addr) : packA op nnn &&& 0xF000#16 = packA op 0#12 := by
  apply BitVec.eq_of_getLsbD_eq
  intro j hj
  simp only [BitVec.getLsbD_and, packA_getLsbD]
  interval_cases j <;> simp

theorem packXK_mask_high (op : BitVec 4) (x : Reg) (kk : Byte) :
    packXK op x kk &&& 0xF000#16 = packXK op 0#4 0#8 := by
  apply BitVec.eq_of_getLsbD_eq
  intro j hj
  simp only [BitVec.getLsbD_and, packXK_getLsbD]
  interval_cases j <;> simp

theorem packXK_mask_ends (op : BitVec 4) (x : Reg) (kk : Byte) :
    packXK op x kk &&& 0xF0FF#16 = packXK op 0#4 kk := by
  apply BitVec.eq_of_getLsbD_eq
  intro j hj
  simp only [BitVec.getLsbD_and, packXK_getLsbD]
  interval_cases j <;> simp

theorem packXY_mask_high (op : BitVec 4) (x y : Reg) (n : BitVec 4) :
    packXY op x y n &&& 0xF000#16 = packXY op 0#4 0#4 0#4 := by
  apply BitVec.eq_of_getLsbD_eq
  intro j hj
  simp only [BitVec.getLsbD_and, packXY_getLsbD]
  interval_cases j <;> simp

theorem packXY_mask_ends (op : BitVec 4) (x y : Reg) (n : BitVec 4) :
    packXY op x y n &&& 0xF00F#16 = packXY op 0#4 0#4 n := by
  apply BitVec.eq_of_getLsbD_eq
  intro j hj
  simp only [BitVec.getLsbD_and, packXY_getLsbD]
  interval_cases j <;> simp

theorem cls : Statement .cls := by unfold Statement; decide
theorem ret : Statement .ret := by unfold Statement; decide
theorem jp (nnn : Addr) : Statement (.jp nnn) :=
  (packA_mask ..).trans rfl
theorem call (nnn : Addr) : Statement (.call nnn) :=
  (packA_mask ..).trans rfl
theorem seImm (x : Reg) (kk : Byte) : Statement (.seImm x kk) :=
  (packXK_mask_high ..).trans rfl
theorem sneImm (x : Reg) (kk : Byte) : Statement (.sneImm x kk) :=
  (packXK_mask_high ..).trans rfl
theorem seReg (x y : Reg) : Statement (.seReg x y) :=
  (packXY_mask_ends ..).trans rfl
theorem ldImm (x : Reg) (kk : Byte) : Statement (.ldImm x kk) :=
  (packXK_mask_high ..).trans rfl
theorem addImm (x : Reg) (kk : Byte) : Statement (.addImm x kk) :=
  (packXK_mask_high ..).trans rfl
theorem ldReg (x y : Reg) : Statement (.ldReg x y) :=
  (packXY_mask_ends ..).trans rfl
theorem orReg (x y : Reg) : Statement (.orReg x y) :=
  (packXY_mask_ends ..).trans rfl
theorem andReg (x y : Reg) : Statement (.andReg x y) :=
  (packXY_mask_ends ..).trans rfl
theorem xorReg (x y : Reg) : Statement (.xorReg x y) :=
  (packXY_mask_ends ..).trans rfl
theorem addReg (x y : Reg) : Statement (.addReg x y) :=
  (packXY_mask_ends ..).trans rfl
theorem sub (x y : Reg) : Statement (.sub x y) :=
  (packXY_mask_ends ..).trans rfl
theorem shr (x y : Reg) : Statement (.shr x y) :=
  (packXY_mask_ends ..).trans rfl
theorem subn (x y : Reg) : Statement (.subn x y) :=
  (packXY_mask_ends ..).trans rfl
theorem shl (x y : Reg) : Statement (.shl x y) :=
  (packXY_mask_ends ..).trans rfl
theorem sneReg (x y : Reg) : Statement (.sneReg x y) :=
  (packXY_mask_ends ..).trans rfl
theorem ldI (nnn : Addr) : Statement (.ldI nnn) :=
  (packA_mask ..).trans rfl
theorem jpV0 (nnn : Addr) : Statement (.jpV0 nnn) :=
  (packA_mask ..).trans rfl
theorem rnd (x : Reg) (kk : Byte) : Statement (.rnd x kk) :=
  (packXK_mask_high ..).trans rfl
theorem drw (x y : Reg) (n : Nat) : Statement (.drw x y n) :=
  (packXY_mask_high ..).trans rfl
theorem skp (x : Reg) : Statement (.skp x) :=
  (packXK_mask_ends ..).trans rfl
theorem sknp (x : Reg) : Statement (.sknp x) :=
  (packXK_mask_ends ..).trans rfl
theorem ldVxDt (x : Reg) : Statement (.ldVxDt x) :=
  (packXK_mask_ends ..).trans rfl
theorem ldVxK (x : Reg) : Statement (.ldVxK x) :=
  (packXK_mask_ends ..).trans rfl
theorem ldDtVx (x : Reg) : Statement (.ldDtVx x) :=
  (packXK_mask_ends ..).trans rfl
theorem ldStVx (x : Reg) : Statement (.ldStVx x) :=
  (packXK_mask_ends ..).trans rfl
theorem addI (x : Reg) : Statement (.addI x) :=
  (packXK_mask_ends ..).trans rfl
theorem ldF (x : Reg) : Statement (.ldF x) :=
  (packXK_mask_ends ..).trans rfl
theorem ldB (x : Reg) : Statement (.ldB x) :=
  (packXK_mask_ends ..).trans rfl
theorem storeRegs (x : Reg) : Statement (.storeRegs x) :=
  (packXK_mask_ends ..).trans rfl
theorem loadRegs (x : Reg) : Statement (.loadRegs x) :=
  (packXK_mask_ends ..).trans rfl

end Sys2Proof.Laws.EncodeMatchesTable
end

