-- ==== Sys2Proof/Tests/Slice0.lean ====
section
/-! SUPPORT. The model's own tests: well-formedness, decoding of words written from the spec's encodings, single steps whose
expected values are the spec's vectors (95_test_vectors.md T1 to T68), and for every obligation with hypotheses a
witness that meets them. -/

namespace Sys2Proof.Tests

open Sys2Proof Sys2Proof.Machine

/-! ### Well-formedness -/

/-- R92: the count of sprite rows is 0..15; the one check there is refuses 16. -/
theorem test_wellformed_refuses_sixteen_rows : WellFormed (.drw 1#4 2#4 16) = false := by decide
theorem test_wellformed_accepts_fifteen_rows : WellFormed (.drw 1#4 2#4 15) = true := by decide

/-! ### Decoding: one word per constructor, digits from R94 to R101 -/

theorem test_decode_cls : decode 0x00E0#16 = .ok .cls := by decide
theorem test_decode_ret : decode 0x00EE#16 = .ok .ret := by decide
theorem test_decode_jp : decode 0x1ABC#16 = .ok (.jp 0xABC#12) := by decide
theorem test_decode_call : decode 0x2ABC#16 = .ok (.call 0xABC#12) := by decide
theorem test_decode_seImm : decode 0x3A5C#16 = .ok (.seImm 0xA#4 0x5C#8) := by decide
theorem test_decode_sneImm : decode 0x4A5C#16 = .ok (.sneImm 0xA#4 0x5C#8) := by decide
theorem test_decode_seReg : decode 0x5A30#16 = .ok (.seReg 0xA#4 0x3#4) := by decide
theorem test_decode_ldImm : decode 0x6A5C#16 = .ok (.ldImm 0xA#4 0x5C#8) := by decide
theorem test_decode_addImm : decode 0x7A5C#16 = .ok (.addImm 0xA#4 0x5C#8) := by decide
theorem test_decode_ldReg : decode 0x8A30#16 = .ok (.ldReg 0xA#4 0x3#4) := by decide
theorem test_decode_orReg : decode 0x8A31#16 = .ok (.orReg 0xA#4 0x3#4) := by decide
theorem test_decode_andReg : decode 0x8A32#16 = .ok (.andReg 0xA#4 0x3#4) := by decide
theorem test_decode_xorReg : decode 0x8A33#16 = .ok (.xorReg 0xA#4 0x3#4) := by decide
theorem test_decode_addReg : decode 0x8A34#16 = .ok (.addReg 0xA#4 0x3#4) := by decide
theorem test_decode_sub : decode 0x8A35#16 = .ok (.sub 0xA#4 0x3#4) := by decide
theorem test_decode_shr : decode 0x8A36#16 = .ok (.shr 0xA#4 0x3#4) := by decide
theorem test_decode_subn : decode 0x8A37#16 = .ok (.subn 0xA#4 0x3#4) := by decide
theorem test_decode_shl : decode 0x8A3E#16 = .ok (.shl 0xA#4 0x3#4) := by decide
theorem test_decode_sneReg : decode 0x9A30#16 = .ok (.sneReg 0xA#4 0x3#4) := by decide
theorem test_decode_ldI : decode 0xAABC#16 = .ok (.ldI 0xABC#12) := by decide
theorem test_decode_jpV0 : decode 0xBABC#16 = .ok (.jpV0 0xABC#12) := by decide
theorem test_decode_rnd : decode 0xCA5C#16 = .ok (.rnd 0xA#4 0x5C#8) := by decide
theorem test_decode_drw : decode 0xDA3F#16 = .ok (.drw 0xA#4 0x3#4 15) := by decide
theorem test_decode_skp : decode 0xEA9E#16 = .ok (.skp 0xA#4) := by decide
theorem test_decode_sknp : decode 0xEAA1#16 = .ok (.sknp 0xA#4) := by decide
theorem test_decode_ldVxDt : decode 0xFA07#16 = .ok (.ldVxDt 0xA#4) := by decide
theorem test_decode_ldVxK : decode 0xFA0A#16 = .ok (.ldVxK 0xA#4) := by decide
theorem test_decode_ldDtVx : decode 0xFA15#16 = .ok (.ldDtVx 0xA#4) := by decide
theorem test_decode_ldStVx : decode 0xFA18#16 = .ok (.ldStVx 0xA#4) := by decide
theorem test_decode_addI : decode 0xFA1E#16 = .ok (.addI 0xA#4) := by decide
theorem test_decode_ldF : decode 0xFA29#16 = .ok (.ldF 0xA#4) := by decide
theorem test_decode_ldB : decode 0xFA33#16 = .ok (.ldB 0xA#4) := by decide
theorem test_decode_storeRegs : decode 0xFA55#16 = .ok (.storeRegs 0xA#4) := by decide
theorem test_decode_loadRegs : decode 0xFA65#16 = .ok (.loadRegs 0xA#4) := by decide

/-- The illegal words of T60. -/
def illegalWords : List Word :=
  [0x0000#16, 0x00E1#16, 0x0123#16, 0x5011#16, 0x9001#16, 0x8008#16, 0x800F#16, 0xE09F#16, 0xF000#16, 0xF075#16, 0xFFFF#16]

/-- T60: each is refused, with the word. -/
theorem test_decode_refuses_illegal_words :
    illegalWords.map decode = illegalWords.map fun w => .error (.illegal w) := by decide

/-- R65, R90: the first byte is the more significant one, and the rest of the bytes is left over. -/
theorem test_decode_bytes_big_endian :
    decodeBytes [0x60#8, 0x05#8, 0x70#8] = .ok (.ldImm 0#4 5#8, [0x70#8]) := by decide

/-! ### Single steps -/

/-- The state after one step of `w`, placed at `PC`, with draw `rnd`. -/
def after (w : Word) (s : State) (rnd : Byte := 0#8) : Option State :=
  match stepOp rnd (s.placeWord w) with
  | .next t => some t
  | .fault _ => none
  | .refused _ => none

/-- The reset state with some registers set. -/
def regs (l : List (Reg × Byte)) : State := l.foldl (fun s p => s.setReg p.1 p.2) State.reset

/-- The reset state with some registers and `I` set. -/
def regsAndI (l : List (Reg × Byte)) (i : Word) : State := (regs l).setI i

/-- T5: sixteen valid entries. -/
def fullStack : State := State.reset.setStack (Vector.replicate 16 0x0202#16) 16

/-- The straps of R8. -/
def straps (shift zero : Bool) (s : State) : State := { s with cfg := ⟨shift, zero⟩ }

/-- T38's registers. -/
def sixteenRegs : List (Reg × Byte) := (List.range 16).map fun k => (BitVec.ofNat 4 k, BitVec.ofNat 8 (0xA0 + k))

/-- T1. -/
theorem test_jp : (after 0x1204#16 State.reset).map (·.pc) = some 0x0204#16 := by decide
/-- T3, steps 1 and 2. -/
theorem test_call : (after 0x2206#16 State.reset).map (fun t => (t.pc, t.sp, t.stk[0])) =
    some (0x0206#16, 1, 0x0202#16) := by decide
theorem test_ret : (after 0x00EE#16 (State.reset.setStack (Vector.replicate 16 0x0206#16) 1)).map
    (fun t => (t.pc, t.sp)) = some (0x0206#16, 0) := by decide
/-- T4. -/
theorem test_ret_empty : (after 0x00EE#16 State.reset).map (fun t => (t.err, t.errInfo, t.pc)) =
    some (.stackUnderflow, 0x0000#16, 0x0202#16) := by decide
/-- T5, step 17. -/
theorem test_call_full : (after 0x2200#16 fullStack).map (fun t => (t.err, t.errInfo, t.sp, t.pc)) =
    some (.stackOverflow, 0x0202#16, 16, 0x0202#16) := by decide
/-- T8, step 2. -/
theorem test_jpV0 : (after 0xBFFF#16 (regs [(0, 0xFF#8)])).map (fun t => (t.pc, t.err)) =
    some (0x10FE#16, .noError) := by decide
/-- T10, both starts. -/
theorem test_seImm : (after 0x3100#16 (regs [(1, 0#8)])).map (·.pc) = some 0x0204#16 := by decide
theorem test_seImm_not : (after 0x3100#16 (regs [(1, 4#8)])).map (·.pc) = some 0x0202#16 := by decide
/-- T11. -/
theorem test_sneImm : (after 0x4209#16 (regs [(2, 7#8)])).map (·.pc) = some 0x0204#16 := by decide
/-- R132's and R133's examples. -/
theorem test_seReg : (after 0x5340#16 (regs [(3, 0x80#8), (4, 0x80#8)])).map (·.pc) = some 0x0204#16 := by decide
theorem test_sneReg : (after 0x9340#16 (regs [(3, 1#8), (4, 2#8)])).map (·.pc) = some 0x0204#16 := by decide
/-- T13. -/
theorem test_sneReg_same : (after 0x9330#16 (regs [(3, 9#8)])).map (·.pc) = some 0x0202#16 := by decide
/-- T15. -/
theorem test_ldImm : (after 0x6FAB#16 State.reset).map (·.reg 15) = some 0xAB#8 := by decide
/-- T16. -/
theorem test_addImm : (after 0x7102#16 (regs [(1, 0xFF#8), (15, 0x55#8)])).map (fun t => (t.reg 1, t.reg 15)) =
    some (0x01#8, 0x55#8) := by decide
/-- T17. -/
theorem test_ldReg : (after 0x8340#16 (regs [(4, 0x2A#8)])).map (fun t => (t.reg 3, t.reg 4)) =
    some (0x2A#8, 0x2A#8) := by decide
/-- T18. -/
theorem test_orReg : (after 0x8121#16 (regs [(1, 0xF0#8), (2, 0x0F#8), (15, 0x55#8)])).map
    (fun t => (t.reg 1, t.reg 15)) = some (0xFF#8, 0x55#8) := by decide
/-- T19. -/
theorem test_andReg : (after 0x8122#16 (regs [(1, 0xF0#8), (2, 0x3C#8)])).map (·.reg 1) = some 0x30#8 := by decide
/-- T20. -/
theorem test_xorReg : (after 0x8123#16 (regs [(1, 0xF0#8), (2, 0x3C#8)])).map (·.reg 1) = some 0xCC#8 := by decide
/-- T21, first start. -/
theorem test_addReg : (after 0x8014#16 (regs [(0, 0xC8#8), (1, 0x64#8)])).map (fun t => (t.reg 0, t.reg 15)) =
    some (0x2C#8, 1#8) := by decide
/-- T22. -/
theorem test_addReg_flag_destination : (after 0x8F14#16 (regs [(15, 0xF0#8), (1, 0x20#8)])).map
    (fun t => (t.reg 15, t.reg 1)) = some (0x01#8, 0x20#8) := by decide
/-- T24, first start. -/
theorem test_sub : (after 0x8015#16 (regs [(0, 0x10#8), (1, 0x20#8)])).map (fun t => (t.reg 0, t.reg 15)) =
    some (0xF0#8, 0#8) := by decide
/-- T25. -/
theorem test_sub_flag_destination : (after 0x8F15#16 (regs [(15, 0x10#8), (1, 0x20#8)])).map (·.reg 15) =
    some 0x00#8 := by decide
/-- T26, first and last start. -/
theorem test_subn : (after 0x8017#16 (regs [(0, 0x10#8), (1, 0x20#8)])).map (fun t => (t.reg 0, t.reg 15)) =
    some (0x10#8, 1#8) := by decide
theorem test_subn_borrow : (after 0x8017#16 (regs [(0, 0x20#8), (1, 0x10#8)])).map (fun t => (t.reg 0, t.reg 15)) =
    some (0xF0#8, 0#8) := by decide
/-- T28, second start. -/
theorem test_shr_flag_destination : (after 0x8F06#16 (regs [(15, 0x03#8)])).map (·.reg 15) = some 0x01#8 := by decide
/-- T29. -/
theorem test_shr_strap : (after 0x8016#16 (straps true false (regs [(0, 0xFE#8), (1, 0x03#8)]))).map
    (fun t => (t.reg 0, t.reg 1, t.reg 15)) = some (0x01#8, 0x03#8, 1#8) := by decide
/-- T30, first start, and T31. -/
theorem test_shl : (after 0x801E#16 (regs [(0, 0x81#8)])).map (fun t => (t.reg 0, t.reg 15)) =
    some (0x02#8, 1#8) := by decide
theorem test_shl_strap : (after 0x801E#16 (straps true false (regs [(0, 0x01#8), (1, 0x81#8)]))).map
    (fun t => (t.reg 0, t.reg 1, t.reg 15)) = some (0x02#8, 0x81#8, 1#8) := by decide
/-- T32. -/
theorem test_rnd : (after 0xC30F#16 State.reset 0xA7#8).map (·.reg 3) = some 0x07#8 := by decide
/-- T33. -/
theorem test_ldI : (after 0xAFFF#16 State.reset).map (·.i) = some 0x0FFF#16 := by decide
/-- T34, second and third start. -/
theorem test_addI_above_memory : (after 0xF01E#16 (regsAndI [(0, 0x01#8)] 0x0FFF#16)).map (fun t => (t.i, t.err)) =
    some (0x1000#16, .noError) := by decide
theorem test_addI_saturates : (after 0xF01E#16 (regsAndI [(0, 0x20#8), (15, 7#8)] 0xFFF0#16)).map
    (fun t => (t.i, t.reg 15)) = some (0xFFFF#16, 7#8) := by decide
/-- T35, second start. -/
theorem test_ldF : (after 0xF029#16 (regs [(0, 0x1A#8)])).map (·.i) = some 0x0082#16 := by decide
/-- T36. -/
theorem test_ldB : (after 0xF433#16 (regsAndI [(4, 0xFF#8)] 0x0FFD#16)).map
    (fun t => (t.mem.readList 0xFFD 3, t.err)) = some ([2#8, 5#8, 5#8], .noError) := by decide
/-- T37. -/
theorem test_ldB_bounds : (after 0xF433#16 (regsAndI [(4, 0xFF#8)] 0x0FFE#16)).map
    (fun t => (t.err, t.errInfo, t.mem.readList 0xFFE 2, t.pc)) =
    some (.memoryBoundsError, 0x1000#16, [0#8, 0#8], 0x0202#16) := by decide
/-- T39: the block store of all sixteen registers with the zeroing strap. -/
theorem test_storeRegs : (after 0xFF55#16 (straps false true (regsAndI sixteenRegs 0x0FF0#16))).map
    (fun t => (t.mem.readList 0xFF0 16, t.v, t.i)) =
    some (sixteenRegs.map (·.2), Vector.replicate 16 0#8, 0x0FF0#16) := by decide
/-- T40. -/
theorem test_storeRegs_bounds : (after 0xFF55#16 (straps false true (regsAndI sixteenRegs 0x0FF1#16))).map
    (fun t => (t.err, t.errInfo, t.reg 0, t.mem.read 0xFF1)) =
    some (.memoryBoundsError, 0x1000#16, 0xA0#8, 0#8) := by decide
/-- T41. -/
theorem test_loadRegs : (after 0xF465#16 (regsAndI [(5, 0x77#8)] 0x0050#16)).map
    (fun t => ([t.reg 0, t.reg 1, t.reg 2, t.reg 3, t.reg 4, t.reg 5], t.i)) =
    some ([0xF0#8, 0x90#8, 0x90#8, 0x90#8, 0xF0#8, 0x77#8], 0x0050#16) := by decide
/-- T42. -/
theorem test_loadRegs_bounds : (after 0xF065#16 (regsAndI [(0, 3#8)] 0xFFFF#16)).map
    (fun t => (t.err, t.errInfo, t.reg 0)) = some (.memoryBoundsError, 0xFFFF#16, 3#8) := by decide
/-- T58, step 3, on a display that is all set. -/
theorem test_cls : (after 0x00E0#16 (State.reset.setPx (Vector.replicate 64 (Vector.replicate 32 true)))).map
    (fun t => (pixel t.px 0 0, pixel t.px 63 31)) = some (false, false) := by decide
/-- T53: both wraps. -/
theorem test_drw_wraps : (after 0xD012#16 ((regsAndI [(0, 0xFF#8), (1, 0xFF#8)] 0x020A#16).setMem
      (State.reset.mem.writeList 0x20A [0x81#8, 0xFF#8]))).map
    (fun t => ([pixel t.px 63 31, pixel t.px 6 31, pixel t.px 0 31, pixel t.px 63 0, pixel t.px 6 0, pixel t.px 7 0],
      t.reg 15)) = some ([true, true, false, true, true, false], 0#8) := by decide
/-- T57. -/
theorem test_drw_bounds : (after 0xD011#16 (regsAndI [(15, 9#8)] 0xFFFF#16)).map
    (fun t => (t.err, t.errInfo, t.reg 15, pixel t.px 0 0)) =
    some (.memoryBoundsError, 0xFFFF#16, 9#8, false) := by decide
/-- T46. -/
theorem test_skp : (after 0xE09E#16 ((regs [(0, 0x0A#8)]).press 0xA#4)).map (·.pc) = some 0x0204#16 := by decide
theorem test_skp_no_key : (after 0xE09E#16 ((regs [(0, 0x1A#8)]).press 0xA#4)).map (·.pc) = some 0x0202#16 := by decide
theorem test_sknp : (after 0xE0A1#16 ((regs [(0, 0x0A#8)]).press 0xA#4)).map (·.pc) = some 0x0202#16 := by decide
theorem test_sknp_no_key : (after 0xE0A1#16 ((regs [(0, 0x1A#8)]).press 0xA#4)).map (fun t => (t.pc, t.err)) =
    some (0x0204#16, .noError) := by decide
/-- R220's, R221's and R222's examples. -/
theorem test_ldVxDt : (after 0xF607#16 (State.reset.setDt 2#8)).map (fun t => (t.reg 6, t.dt)) =
    some (2#8, 2#8) := by decide
theorem test_ldDtVx : (after 0xFA15#16 (regs [(10, 5#8)])).map (fun t => (t.dt, t.st)) = some (5#8, 0#8) := by decide
theorem test_ldStVx : (after 0xF118#16 (regs [(1, 0x1E#8)])).map (fun t => (t.dt, t.st)) =
    some (0#8, 0x1E#8) := by decide
/-- T44, step 1: the wait begins with a latched key and does not look at it. -/
theorem test_ldVxK : (after 0xF50A#16 (State.reset.press 7#4)).map (fun t => (t.wait, t.latch, t.pc, t.reg 5)) =
    some (some 5#4, some 7#4, 0x0202#16, 0#8) := by decide
/-- T44, step 2: the resolution. -/
theorem test_resolution : (after 0x0000#16 State.reset).map (·.wait) = some none ∧
    (match stepOp 0#8 ((State.reset.press 7#4).setWait (some 5#4)) with
      | .next t => some (t.reg 5, t.wait, t.latch, t.pc)
      | _ => none) = some (7#8, none, none, 0x0200#16) := by decide
/-- T62: the illegal word 0x0000. -/
theorem test_illegal : (after 0x0000#16 State.reset).map (fun t => (t.err, t.errInfo, t.pc, t.started)) =
    some (.decodeError, 0#16, 0x0202#16, true) := by decide
/-- T9, step 2. -/
theorem test_fetch_bounds : (match stepOp 0#8 (State.reset.setPc 0x0FFF#16) with
      | .next t => some (t.err, t.errInfo, t.pc)
      | _ => none) = some (.memoryBoundsError, 0x1000#16, 0x0FFF#16) := by decide
/-- T49 and T48: two ticks from 3, and the clamp at 0. -/
theorem test_tick : ((tickOp ((State.reset.setDt 3#8).setSt 1#8)).dt, (tickOp ((State.reset.setDt 3#8).setSt 1#8)).st,
    (tickOp State.reset).dt) = (2#8, 0#8, 0#8) := by decide
/-- T47. -/
theorem test_key : (keyOp 3#4 (keyOp 10#4 State.reset)).key[10] = false ∧
    (keyOp 3#4 (keyOp 10#4 State.reset)).key[3] = true ∧
    (keyOp 3#4 (keyOp 10#4 State.reset)).latch = some 3#4 := by decide
/-- T66: loading twice. -/
theorem test_load_twice : (loadOp [0x60#8, 0x33#8] (loadOp [0x60#8, 0x11#8, 0x61#8, 0x22#8] State.reset)).mem.readList 512 4 =
    [0x60#8, 0x33#8, 0x61#8, 0x22#8] := by decide
/-- The host's placement: a table word runs as the first instruction after reset. -/
theorem test_withFetchWord : (match step (State.reset.withFetchWord 16 0x6FAB) with
      | .next t => some (t.reg 15, t.pc)
      | _ => none) = some (0xAB#8, 0x0202#16) := by decide
/-- R259: the byte-wise load raises with its own address, and `rst` overrides the other requests. -/
theorem test_port_load_bounds : ((portLoad 0xE00#12 1#8 State.reset).err, (portLoad 0xE00#12 1#8 State.reset).errInfo,
    (portLoad 0xDFF#12 1#8 State.reset).mem.read 4095) = (.memoryBoundsError, 0x1000#16, 1#8) := by decide
theorem test_port_rst : (match portCycle ⟨true, true, false, false, 0#12, 0#8, true, true, 9#4, true, 0#8⟩ (regs [(0, 5#8)]) with
      | .next t => some (t.reg 0, t.latch, t.started, t.cfg.shiftSrcVy)
      | _ => none) = some (0#8, none, false, true) := by decide
theorem test_decodeTableWord : decodeTableWord 16 0xD125 = some (.drw 1#4 2#4 5) := by decide

/-! ### Witnesses: each shows values that meet all the hypotheses of the obligation it is named after together, each clause at
a boundary value -/

/-- The last address a fetch can read from, with the word `w` there. -/
def atTop (w : Word) (s : State) : State :=
  (s.setPc 4094#16).setMem (s.mem.writeList 4094 (bytesOfWord w))

/-- A state no reset leaves: key 7 down and latched, a wait for `V[5]` pending, timers running, two return addresses. -/
def busy : State :=
  { ((State.reset.press 7#4).setStack (Vector.replicate 16 4096#16) 2) with
    wait := some 5#4, started := true, dt := 9#8, st := 1#8, pc := 4350#16 }

theorem witness_decode_hypotheses : WellFormed (.drw 1#4 2#4 15) = true ∧ decode 0xD12F#16 = .ok (.drw 1#4 2#4 15) ∧
    encode (.drw 1#4 2#4 15) = 0xD12F#16 := by decide
theorem witness_table_row_matched_twice :
    0x8AB4#16 &&& (tableRow (.addReg 0xA#4 0xB#4)).2 = (tableRow (.addReg 0xA#4 0xB#4)).1 ∧
    0x8AB4#16 &&& (tableRow (.addReg 0#4 0#4)).2 = (tableRow (.addReg 0#4 0#4)).1 := by decide
/-- The ends of each clause of the illegal set, and their legal neighbours. -/
theorem witness_illegal_words :
    (IllegalWord 0x0000#16 ∧ IllegalWord 0x0FFF#16 ∧ IllegalWord 0x00E1#16 ∧ ¬ IllegalWord 0x00E0#16 ∧ ¬ IllegalWord 0x00EE#16) ∧
    (IllegalWord 0x5001#16 ∧ IllegalWord 0x5FFF#16 ∧ ¬ IllegalWord 0x5FF0#16) ∧
    (IllegalWord 0x9001#16 ∧ IllegalWord 0x9FFF#16 ∧ ¬ IllegalWord 0x9FF0#16) ∧
    (IllegalWord 0x8008#16 ∧ IllegalWord 0x8FFF#16 ∧ ¬ IllegalWord 0x8FFE#16 ∧ ¬ IllegalWord 0x8007#16) ∧
    (IllegalWord 0xE000#16 ∧ IllegalWord 0xEFFF#16 ∧ ¬ IllegalWord 0xEF9E#16 ∧ ¬ IllegalWord 0xE0A1#16) ∧
    (IllegalWord 0xF000#16 ∧ IllegalWord 0xFFFF#16 ∧ ¬ IllegalWord 0xFF65#16 ∧ ¬ IllegalWord 0xF007#16) := by
  simp [IllegalWord]

theorem witness_step_runs : Running (atTop 0x00E0#16 State.reset) ∧ (atTop 0x00E0#16 State.reset).pc.toNat ≤ 4094 ∧
    decode (WordAtPc (atTop 0x00E0#16 State.reset)) = .ok .cls := by
  refine ⟨⟨rfl, rfl⟩, ?_, ?_⟩ <;> decide
theorem witness_fetch_above : (Running (State.reset.setPc 4095#16) ∧ 4094 < (State.reset.setPc 4095#16).pc.toNat) ∧
    (Running (State.reset.setPc 0xFFFF#16) ∧ 4094 < (State.reset.setPc 0xFFFF#16).pc.toNat) := by
  refine ⟨⟨⟨rfl, rfl⟩, ?_⟩, ⟨rfl, rfl⟩, ?_⟩ <;> decide
theorem witness_illegal_step : Running (atTop 0xFFFF#16 State.reset) ∧ (atTop 0xFFFF#16 State.reset).pc.toNat ≤ 4094 ∧
    IllegalWord (WordAtPc (atTop 0xFFFF#16 State.reset)) := by
  refine ⟨⟨rfl, rfl⟩, by decide, ?_⟩
  rw [show WordAtPc (atTop 0xFFFF#16 State.reset) = 0xFFFF#16 by decide]
  simp [IllegalWord]
theorem witness_halted : Halted (State.reset.raise .stackUnderflow) ∧
    DriverOp.reset ∉ [DriverOp.tick, .key 1#4, .step 0#8, .load [1#8]] := by
  refine ⟨?_, ?_⟩
  · unfold Halted; decide
  · decide
theorem witness_key_wait : (KeyWaiting busy 5#4 ∧ busy.latch = some 7#4) ∧
    (KeyWaiting (busy.setLatch none) 5#4 ∧ (busy.setLatch none).latch = none) ∧
    (5#4 : Reg) ≠ 15#4 := by
  refine ⟨⟨⟨rfl, rfl⟩, rfl⟩, ⟨⟨rfl, rfl⟩, rfl⟩, ?_⟩; decide
/-- One entry, sixteen entries, none; and a popped 4096 meets the premises of the fetch that faults. -/
theorem witness_ret : busy.sp.val = (1 : Fin 16).val + 1 ∧ fullStack.sp.val = (15 : Fin 16).val + 1 ∧
    State.reset.sp.val = 0 ∧
    ∃ t, exec .ret { busy with wait := none } = .next t ∧ Running t ∧ 4094 < t.pc.toNat := by
  refine ⟨?_, ?_, ?_, ?_⟩
  · decide
  · decide
  · decide
  · exact ⟨_, rfl, ⟨rfl, rfl⟩, by decide⟩
theorem witness_jump : (∃ t, exec (.jp 0xFFF#12) State.reset = .next t ∧ Running t ∧ (0xFFF#12 : Addr).toNat = 4095) ∧
    (Running ((atTop 0x1FFE#16 State.reset).start) ∧ (atTop 0x1FFE#16 State.reset).start.started = true ∧
      (atTop 0x1FFE#16 State.reset).start.pc.toNat = (0xFFE#12 : Addr).toNat ∧
      (atTop 0x1FFE#16 State.reset).start.pc.toNat ≤ 4094 ∧
      WordAtPc (atTop 0x1FFE#16 State.reset).start = 0x1#4 ++ 0xFFE#12) := by
  refine ⟨⟨_, rfl, ⟨rfl, rfl⟩, ?_⟩, ⟨rfl, rfl⟩, ?_, ?_, ?_, ?_⟩ <;> decide
theorem witness_call : State.reset.sp.val = (0 : Fin 16).val ∧ (fullStack.setStack fullStack.stk 15).sp.val = (15 : Fin 16).val ∧
    fullStack.sp.val = 16 ∧ (3 : Fin 16) ≠ 15 := by decide
theorem witness_jump_v0 : ∃ t, exec (.jpV0 0xFFF#12) (regs [(0, 0xFF#8)]) = .next t ∧ Running t ∧ 4094 < t.pc.toNat ∧
    t.pc.toNat = 4350 := by
  refine ⟨_, rfl, ⟨rfl, rfl⟩, ?_, ?_⟩ <;> decide
theorem witness_key_skips : (((regs [(0, 15#8)]).press 15#4).reg 0).toNat = (15 : Fin 16).val ∧
    ((regs [(0, 15#8)]).press 15#4).key[(15 : Fin 16)] = true ∧ 16 ≤ ((regs [(0, 16#8)]).reg 0).toNat := by decide
/-- The destination clause of the flag instructions: a register that is not `VF`, and carry, borrow and bits at their turns. -/
theorem witness_flag_clauses : (14#4 : Reg) ≠ 15#4 ∧
    (exec (.addReg 0 1) (regs [(0, 0xFF#8), (1, 0#8)]) = .next ((regs [(0, 0xFF#8), (1, 0#8)]).setRegThenFlag 0 0xFF#8 0#8)) ∧
    (exec (.addReg 0 1) (regs [(0, 0xFF#8), (1, 1#8)]) = .next ((regs [(0, 0xFF#8), (1, 1#8)]).setRegThenFlag 0 0#8 1#8)) := by
  refine ⟨by decide, rfl, rfl⟩
theorem witness_shift_source : (0x03#8 : Byte) =
      (if (straps true false (regs [(1, 3#8)])).cfg.shiftSrcVy then (straps true false (regs [(1, 3#8)])).reg 1
        else (straps true false (regs [(1, 3#8)])).reg 0) ∧
    (0x05#8 : Byte) = (if (regs [(0, 5#8)]).cfg.shiftSrcVy then (regs [(0, 5#8)]).reg 1 else (regs [(0, 5#8)]).reg 0) := by
  decide
theorem witness_bcd : (regsAndI [] 4093#16).i.toNat + 2 ≤ 4095 ∧ (regsAndI [] 4094#16).i.toNat + 2 > 4095 := by decide
theorem witness_block : (regsAndI [] 4080#16).i.toNat + (15#4 : Reg).toNat ≤ 4095 ∧
    (regsAndI [] 4095#16).i.toNat + (0#4 : Reg).toNat ≤ 4095 ∧
    (regsAndI [] 4081#16).i.toNat + (15#4 : Reg).toNat > 4095 ∧
    (regsAndI [] 4096#16).i.toNat + (0#4 : Reg).toNat > 4095 ∧ (14#4 : Reg).toNat ≤ (15#4 : Reg).toNat ∧
    ((straps false true State.reset).cfg.storeZeroesRegs = true ∧ (15#4 : Reg).toNat ≤ (15#4 : Reg).toNat) := by decide
/-- Every clause of the draw: `n` = 0 anywhere, the last sprite byte at 4095 and past it, a 1 bit, a 0 bit. -/
theorem witness_draw : ((0 : Nat) = 0 ∨ (regsAndI [] 0xFFFF#16).i.toNat + 0 - 1 ≤ 4095) ∧
    ((15 : Nat) = 0 ∨ (regsAndI [] 4081#16).i.toNat + 15 - 1 ≤ 4095) ∧
    (15 > 0 ∧ (regsAndI [] 4082#16).i.toNat + 15 - 1 > 4095) ∧ (15 ≤ 15) ∧
    SpriteOne (fun row => State.reset.mem.read (0x50 + row)) 5 255 255 63 31 ∧
    ¬ SpriteOne (fun row => State.reset.mem.read (0x50 + row)) 5 255 255 4 31 := by
  refine ⟨by decide, by decide, by decide, by decide, ⟨0, 0, by decide⟩, ?_⟩
  rintro ⟨row, bit, hr, hb, h⟩
  have : ∀ (row : Fin 5) (bit : Fin 8), ¬ ((State.reset.mem.read (0x50 + row.val)).getLsbD (7 - bit.val) = true ∧
      (4 : Fin 64).val = (255 + bit.val) % 64 ∧ (31 : Fin 32).val = (255 + row.val) % 32) := by decide
  exact this ⟨row, hr⟩ ⟨bit, hb⟩ h
theorem witness_draw_collision : (∃ c r, SpriteOne (fun row => State.reset.mem.read (0x50 + row)) 5 0 0 c r ∧
      pixel (Vector.replicate 64 (Vector.replicate 32 true)) c r = true) ∧
    ¬ (∃ c r, SpriteOne (fun row => State.reset.mem.read (0x50 + row)) 5 0 0 c r ∧ pixel clearDisplay c r = true) := by
  refine ⟨⟨0, 0, ⟨0, 0, by decide⟩, by decide⟩, ?_⟩
  rintro ⟨c, r, -, h⟩
  simp [pixel, clearDisplay] at h
theorem witness_double_draw : (List.replicate 15 0xFF#8).length ≤ 15 ∧ ([] : List Byte).length ≤ 15 := by decide
theorem witness_tick_and_key : (busy.err = .noError ∧ State.reset.dt.toNat = 0 ∧ busy.st.toNat = 1) ∧
    (State.reset.raise .stackUnderflow).err ≠ .noError := by decide
theorem witness_load : (busy.err ≠ .noError ∨ busy.started = true) ∧
    ((State.reset.raise .stackUnderflow).err ≠ .noError ∨ (State.reset.raise .stackUnderflow).started = true) ∧
    (State.reset.err = .noError ∧ State.reset.started = false ∧ (List.replicate 3585 0#8).length > 3584 ∧
      (List.replicate 3584 0#8).length ≤ 3584 ∧ 3583 < (List.replicate 3584 0#8).length) := by
  refine ⟨by decide, by decide, rfl, rfl, ?_, ?_, ?_⟩ <;> rw [List.length_replicate] <;> decide
theorem witness_logical_cycle : KeyWaiting busy 5#4 ∧
    Running (atTop 0xFF07#16 State.reset) ∧ (atTop 0xFF07#16 State.reset).pc.toNat ≤ 4094 ∧
    WordAtPc (atTop 0xFF07#16 State.reset) = 0xF#4 ++ 15#4 ++ 0x07#8 := by
  refine ⟨⟨rfl, rfl⟩, ⟨rfl, rfl⟩, ?_, ?_⟩ <;> decide

/-- A sampling with every request but a load. -/
def allRequests : PortIn := ⟨false, true, false, false, 0#12, 0#8, true, true, 9#4, true, 0xA7#8⟩

theorem witness_port : allRequests.rst = false ∧ allRequests.loadWe = false ∧
    (straps true false busy).cfg = ⟨allRequests.cfgShiftSrcVy, allRequests.cfgStoreZeroesRegs⟩ := by decide
/-- A pending wait and none, and every error of the latch. -/
theorem witness_outputs : busy.wait = some 5#4 ∧ State.reset.wait = none ∧ State.reset.err = .noError ∧
    (State.reset.raise (.decodeError 0#16)).err = .decodeError ∧
    (State.reset.raise (.memoryBoundsError 0x1000#16)).err = .memoryBoundsError ∧
    (State.reset.raise (.stackOverflow 0x0202#16)).err = .stackOverflow ∧
    (State.reset.raise .stackUnderflow).err = .stackUnderflow := by decide
theorem witness_symbols : keyOfSymbol 0x76#8 = some 15#4 ∧ keyOfSymbol 0x56#8 = none := by decide

theorem busy_inv : Inv busy where
  memory := by decide
  pcRange := by decide
  stackRange := by decide
  oneKey := by decide
  latchDown := by intro k h; cases h; decide
  waiting := fun _ => ⟨rfl, rfl⟩
  infoClear := fun _ => rfl

/-- The invariant's premises, in a state that is not the reset state: the step resolves the wait. -/
theorem witness_invariant : Inv busy ∧ step busy = .next (busy.start.resolveWait 5#4) := ⟨busy_inv, rfl⟩

/-- Each of the errors an instruction can raise is raised somewhere. -/
theorem witness_raises :
    (exec (.call 0#12) fullStack = .next (fullStack.raise (.stackOverflow 0x200#16)) ∧
      (fullStack.raise (.stackOverflow 0x200#16)).err ≠ fullStack.err) ∧
    (exec .ret State.reset = .next (State.reset.raise .stackUnderflow) ∧
      (State.reset.raise .stackUnderflow).err ≠ State.reset.err) ∧
    exec (.ldB 0) (regsAndI [] 4094#16) = .next ((regsAndI [] 4094#16).raise (.memoryBoundsError 4096#16)) ∧
    exec (.storeRegs 0) (regsAndI [] 4096#16) = .next ((regsAndI [] 4096#16).raise (.memoryBoundsError 4096#16)) ∧
    exec (.loadRegs 0) (regsAndI [] 4096#16) = .next ((regsAndI [] 4096#16).raise (.memoryBoundsError 4096#16)) ∧
    exec (.drw 0 0 1) (regsAndI [] 4096#16) = .next ((regsAndI [] 4096#16).raise (.memoryBoundsError 4096#16)) := by
  refine ⟨⟨rfl, by decide⟩, ⟨rfl, by decide⟩, rfl, rfl, rfl, rfl⟩

/-- An instruction that completes, for the statements over every instruction. -/
theorem witness_exec : exec (.ldVxK 5#4) State.reset = .next (State.reset.setWait (some 5#4)) := rfl

theorem witness_flag_changes : ∃ t, exec (.addReg 0 1) (regs [(0, 0xFF#8), (1, 1#8)]) = .next t ∧
    t.reg 15#4 ≠ (regs [(0, 0xFF#8), (1, 1#8)]).reg 15#4 := ⟨_, rfl, by decide⟩
theorem witness_flag_of_draw : ∃ t, exec (.drw 0 0 0) (regs [(15, 9#8)]) = .next t ∧
    t.err = (regs [(15, 9#8)]).err ∧ (regs [(15, 9#8)]).err = .noError ∧ t.reg 15#4 ≠ (regs [(15, 9#8)]).reg 15#4 :=
  ⟨_, rfl, by decide, by decide, by decide⟩
theorem witness_memory_writers : (∃ t, exec (.ldB 0) (regsAndI [(0, 234#8)] 0x300#16) = .next t ∧
      t.mem.read 0x302 ≠ (regsAndI [(0, 234#8)] 0x300#16).mem.read 0x302) ∧
    ∃ t, perform (.load [1#8]) State.reset = .next t ∧ t.mem.read 512 ≠ State.reset.mem.read 512 :=
  ⟨⟨_, rfl, by decide⟩, _, rfl, by decide⟩
theorem witness_timers_increase : (∃ t, exec (.ldDtVx 0) (regs [(0, 1#8)]) = .next t ∧ t.dt.toNat > (regs [(0, 1#8)]).dt.toNat) ∧
    (∃ t, exec (.ldStVx 0) (regs [(0, 1#8)]) = .next t ∧ t.st.toNat > (regs [(0, 1#8)]).st.toNat) ∧
    (perform .tick busy = .next (tickOp busy) ∧ ∀ rnd, DriverOp.tick ≠ .step rnd) :=
  ⟨⟨_, rfl, by decide⟩, ⟨_, rfl, by decide⟩, rfl, nofun⟩
theorem witness_stack : (fullStack.setStack fullStack.stk 14).sp.val + 2 ≤ 16 ∧ State.reset.sp.val + 2 ≤ 16 := by decide

/-- T43, before its step 4. -/
def beforeStore : State := (regsAndI [(0, 0x12#8), (1, 0x08#8)] 0x208#16).setPc 0x208#16

theorem witness_store_is_seen : Running beforeStore ∧ 1 ≤ (1#4 : Reg).toNat ∧ beforeStore.i = beforeStore.pc ∧
    beforeStore.i.toNat + (1#4 : Reg).toNat ≤ 4095 ∧ (∃ t, exec (.storeRegs 1#4) beforeStore = .next t) ∧
    decode (beforeStore.reg 0#4 ++ beforeStore.reg 1#4) = .ok (.jp 0x208#12) :=
  ⟨⟨rfl, rfl⟩, by decide, by decide, by decide, ⟨_, rfl⟩, by decide⟩
theorem witness_operations : runOps [.tick, .key 7#4, .load [1#8]] busy =
    .next (loadOp [1#8] (keyOp 7#4 (tickOp busy))) := rfl
theorem witness_key_stays_down : (∃ t, runOps [.tick, .key 7#4] busy = .next t) ∧ busy.key[(7#4 : Key).toFin] = true ∧
    DriverOp.reset ∉ [DriverOp.tick, .key 7#4] ∧ ∀ j, DriverOp.key j ∈ [DriverOp.tick, .key 7#4] → j = 7#4 := by
  refine ⟨⟨_, rfl⟩, by decide, by decide, ?_⟩
  intro j h; simpa using h
theorem witness_key_wait_lasts : KeyWaiting (busy.setLatch none) 5#4 ∧ (busy.setLatch none).latch = none ∧
    ∀ op ∈ [DriverOp.tick, .step 3#8], op = .tick ∨ ∃ rnd, op = .step rnd := by
  refine ⟨⟨rfl, rfl⟩, rfl, ?_⟩
  simp

end Sys2Proof.Tests
end

section
/-! SUPPORT. What every operation keeps: the straps and the font (00_scope.md R8, 70_reset_and_hazards.md R321)

An instruction writes no input of the core, whatever it does to the state items. A step also takes a draw and `reset` clears
the last one, so of the inputs only the straps and the font survive every operation of the driver. -/

namespace Sys2Proof.Machine

/-! ### Sequences of operations -/

theorem runOps_cons_next {op : DriverOp} {ops : List DriverOp} {s u : State} :
    runOps (op :: ops) s = .next u ↔ ∃ t, perform op s = .next t ∧ runOps ops t = .next u := by
  rw [runOps]
  cases perform op s <;> simp

/-- What every operation of a sequence keeps, the whole sequence keeps. -/
theorem runOps_invariant {P : State → Prop} {ops : List DriverOp}
    (hkeep : ∀ op ∈ ops, ∀ s t, perform op s = .next t → P s → P t) {s t : State}
    (hrun : runOps ops s = .next t) (hs : P s) : P t := by
  induction ops generalizing s with
  | nil => cases hrun; exact hs
  | cons op ops ih =>
    obtain ⟨u, hop, hops⟩ := runOps_cons_next.mp hrun
    have hu : P u := hkeep op List.mem_cons_self s u hop hs
    exact ih (fun o ho => hkeep o (List.mem_cons_of_mem op ho)) hops hu

/-! ### Instructions keep every input (R38) -/

/-- A next state answered by `r` has the inputs of `s`: the straps, the font, the draw and the count of draws. -/
def KeepsInputs (s : State) (r : Result) : Prop := ∀ t, r = .next t → Item.inputs.Same s t

theorem keepsInputs_next {s t : State} : KeepsInputs s (.next t) ↔ Item.inputs.Same s t := by
  simp [KeepsInputs]

theorem keepsInputs_raise (s : State) (f : Fatal) : KeepsInputs s (.next (s.raise f)) :=
  keepsInputs_next.mpr ⟨rfl, rfl, rfl, rfl⟩

theorem keepsInputs_skipIf (s : State) (p : Bool) : KeepsInputs s (.next (s.skipIf p)) :=
  keepsInputs_next.mpr (by simp [Item.Same])

/-- A checked write raises, or it writes all its bytes. -/
theorem State.writeBytes_cases (s : State) (base : Nat) (bs : List Byte) :
    (∃ f, s.writeBytes base bs = .error f) ∨ s.writeBytes base bs = .ok (s.setMem (s.mem.writeList base bs)) := by
  rcases checkAccess_cases base bs.length with ⟨-, hfits⟩ | ⟨-, hpos, hout⟩
  · exact .inr (s.writeBytes_ok hfits)
  · exact .inl ⟨_, s.writeBytes_error hpos hout⟩

theorem execRet_keepsInputs (s : State) : KeepsInputs s (execRet s) := by
  by_cases h : s.sp.val = 0
  · simpa [execRet, s.pop_empty h] using keepsInputs_raise s .stackUnderflow
  · simp [execRet, s.pop_ok h, keepsInputs_next, Item.Same]

theorem execCall_keepsInputs (nnn : Addr) (s : State) : KeepsInputs s (execCall nnn s) := by
  by_cases h : s.sp.val < 16
  · simp [execCall, s.push_ok _ h, keepsInputs_next, Item.Same]
  · have hfull : s.sp.val = 16 := by omega
    simpa [execCall, s.push_full _ hfull] using keepsInputs_raise s (.stackOverflow s.pc)

theorem execDrw_keepsInputs (x y : Reg) (n : Nat) (s : State) : KeepsInputs s (execDrw x y n s) := by
  unfold execDrw
  split
  · exact keepsInputs_raise s _
  · simp [keepsInputs_next, Item.Same]

theorem execLdB_keepsInputs (x : Reg) (s : State) : KeepsInputs s (execLdB x s) := by
  obtain ⟨f, h⟩ | h := s.writeBytes_cases s.base (bcdDigits (s.reg x))
  · simpa [execLdB, State.orRaise, h] using keepsInputs_raise s f
  · simp [execLdB, State.orRaise, h, keepsInputs_next, Item.Same]

theorem State.zeroStored_inputs (s : State) (x : Reg) : Item.inputs.Same s (s.zeroStored x) := by
  unfold State.zeroStored
  split <;> simp [Item.Same]

theorem execStoreRegs_keepsInputs (x : Reg) (s : State) : KeepsInputs s (execStoreRegs x s) := by
  obtain ⟨f, h⟩ | h := s.writeBytes_cases s.base (s.regsUpTo x)
  · simpa [execStoreRegs, h] using keepsInputs_raise s f
  · have hzero := (s.setMem (s.mem.writeList s.base (s.regsUpTo x))).zeroStored_inputs x
    simpa [execStoreRegs, h, keepsInputs_next, Item.Same] using hzero

theorem execLoadRegs_keepsInputs (x : Reg) (s : State) : KeepsInputs s (execLoadRegs x s) := by
  unfold execLoadRegs
  split
  · exact keepsInputs_raise s _
  · simp [keepsInputs_next, Item.Same]

/-- R38: the inputs are no state, and no instruction writes them. Outside the skips and the instructions that may raise, an
instruction is a chain of writes to named items. -/
theorem exec_keepsInputs (i : Instr) (s : State) : KeepsInputs s (exec i s) := by
  cases i with
  | ret => exact execRet_keepsInputs s
  | call nnn => exact execCall_keepsInputs nnn s
  | drw x y n => exact execDrw_keepsInputs x y n s
  | ldB x => exact execLdB_keepsInputs x s
  | storeRegs x => exact execStoreRegs_keepsInputs x s
  | loadRegs x => exact execLoadRegs_keepsInputs x s
  | seImm | sneImm | seReg | sneReg | skp | sknp => exact keepsInputs_skipIf s _
  | _ => exact keepsInputs_next.mpr ⟨rfl, rfl, rfl, rfl⟩

theorem execWord_keepsInputs (w : Word) (s : State) : KeepsInputs s (execWord w s) := by
  cases hw : decode w with
  | error e => rw [execWord_error s hw]; exact keepsInputs_raise s _
  | ok i => rw [execWord_ok s hw]; exact exec_keepsInputs i s

theorem runInstr_keepsInputs (s : State) : KeepsInputs s (runInstr s) := by
  obtain ⟨-, h⟩ | ⟨-, h⟩ := runInstr_cases s <;> rw [h]
  · exact keepsInputs_raise s _
  · exact execWord_keepsInputs _ s.advancePc

/-! ### Every operation keeps the straps and the font (R321) -/

/-- The inputs that stay fixed during a run (R8): the straps and the font. -/
def State.params (s : State) : Straps × Vector Byte 80 := (s.cfg, s.mem.font)

theorem State.params_eq_iff {s t : State} : t.params = s.params ↔ t.cfg = s.cfg ∧ t.mem.font = s.mem.font :=
  Prod.ext_iff

theorem KeepsInputs.params_eq {s t : State} {r : Result} (h : KeepsInputs s r) (hr : r = .next t) :
    t.params = s.params := by
  obtain ⟨hcfg, hfont, -, -⟩ := h t hr
  exact State.params_eq_iff.mpr ⟨hcfg, hfont⟩

@[simp] theorem State.resolveWait_params (s : State) (x : Reg) : (s.resolveWait x).params = s.params := by
  cases h : s.latch with
  | none => rw [s.resolveWait_none x h]
  | some k => rw [s.resolveWait_some x h]; rfl

@[simp] theorem loadOp_params (bytes : List Byte) (s : State) : (loadOp bytes s).params = s.params := by
  unfold loadOp
  split_ifs <;> simp [State.params]

@[simp] theorem tickOp_params (s : State) : (tickOp s).params = s.params := by
  unfold tickOp
  split <;> rfl

@[simp] theorem keyOp_params (k : Key) (s : State) : (keyOp k s).params = s.params := by
  unfold keyOp
  split <;> rfl

theorem stepOp_params {rnd : Byte} {s t : State} (h : stepOp rnd s = .next t) : t.params = s.params := by
  by_cases herr : s.err = .noError
  · cases hwait : s.wait with
    | none =>
      rw [stepOp_running rnd s herr hwait] at h
      exact (runInstr_keepsInputs (s.start.takeDraw rnd)).params_eq h
    | some x =>
      rw [stepOp_waiting rnd s x herr hwait] at h
      cases h
      exact s.start.resolveWait_params x
  · rw [stepOp_halted rnd s herr] at h
    cases h
    rfl

theorem perform_params {op : DriverOp} {s t : State} (h : perform op s = .next t) : t.params = s.params := by
  cases op with
  | reset => cases h; rfl
  | load bytes => cases h; exact loadOp_params bytes s
  | tick => cases h; exact tickOp_params s
  | key k => cases h; exact keyOp_params k s
  | step rnd => exact stepOp_params h

/-- Settles O58: having the straps and the font of the first state is an invariant of every operation. -/
theorem strapsAreConstant : Obligations.StrapsAreConstant := by
  intro ops s t hrun
  have hparams : t.params = s.params :=
    runOps_invariant (P := fun u => u.params = s.params) (fun _ _ _ _ h hu => (perform_params h).trans hu) hrun rfl
  exact State.params_eq_iff.mp hparams

end Sys2Proof.Machine
end

section
/-! SUPPORT. The frames of the instructions (10_state.md R43): which items an instruction can change, and who writes `VF` (R22) and
the timers (R28). For each state operation one rule says which items it keeps; for each instruction that can raise one lemma
says the two ways it can end. The other instructions are chains of writes, read off `exec` directly. -/

namespace Sys2Proof.Machine

/-! ### What each state operation keeps -/

section Frames

variable {w : List Item} {s t : State}

theorem KeepsAllBut.refl (w : List Item) (s : State) : KeepsAllBut w s s := by
  intro item _
  cases item <;> simp [Item.Same]

theorem KeepsAllBut.setReg (h : KeepsAllBut w s t) (hw : .v ∈ w) (x : Reg) (b : Byte) :
    KeepsAllBut w s (t.setReg x b) := by
  intro item hitem
  cases item with
  | v => exact absurd hw hitem
  | _ => exact h _ hitem

theorem KeepsAllBut.setRegThenFlag (h : KeepsAllBut w s t) (hw : .v ∈ w) (x : Reg) (b f : Byte) :
    KeepsAllBut w s (t.setRegThenFlag x b f) :=
  (h.setReg hw x b).setReg hw vfIndex f

theorem KeepsAllBut.setRegsUpTo (h : KeepsAllBut w s t) (hw : .v ∈ w) (x : Reg) (f : Nat → Byte) :
    KeepsAllBut w s (t.setRegsUpTo x f) :=
  List.foldlRecOn _ _ h fun _ hu k _ => hu.setReg hw (BitVec.ofNat 4 k) (f k)

theorem KeepsAllBut.setI (h : KeepsAllBut w s t) (hw : .i ∈ w) (a : Word) : KeepsAllBut w s (t.setI a) := by
  intro item hitem
  cases item with
  | i => exact absurd hw hitem
  | _ => exact h _ hitem

theorem KeepsAllBut.setPc (h : KeepsAllBut w s t) (hw : .pc ∈ w) (a : Word) : KeepsAllBut w s (t.setPc a) := by
  intro item hitem
  cases item with
  | pc => exact absurd hw hitem
  | _ => exact h _ hitem

theorem KeepsAllBut.skipIf (h : KeepsAllBut w s t) (hw : .pc ∈ w) (p : Bool) : KeepsAllBut w s (t.skipIf p) := by
  cases p with
  | true => exact h.setPc hw (t.pc + 2#16)
  | false => exact h

theorem KeepsAllBut.setDt (h : KeepsAllBut w s t) (hw : .dt ∈ w) (b : Byte) : KeepsAllBut w s (t.setDt b) := by
  intro item hitem
  cases item with
  | dt => exact absurd hw hitem
  | _ => exact h _ hitem

theorem KeepsAllBut.setSt (h : KeepsAllBut w s t) (hw : .st ∈ w) (b : Byte) : KeepsAllBut w s (t.setSt b) := by
  intro item hitem
  cases item with
  | st => exact absurd hw hitem
  | _ => exact h _ hitem

theorem KeepsAllBut.setPx (h : KeepsAllBut w s t) (hw : .px ∈ w) (p : Display) : KeepsAllBut w s (t.setPx p) := by
  intro item hitem
  cases item with
  | px => exact absurd hw hitem
  | _ => exact h _ hitem

theorem KeepsAllBut.setWait (h : KeepsAllBut w s t) (hw : .wait ∈ w) (x : Option Reg) :
    KeepsAllBut w s (t.setWait x) := by
  intro item hitem
  cases item with
  | wait => exact absurd hw hitem
  | _ => exact h _ hitem

/-- The font is an input (R38), so a write to memory has to keep it. -/
theorem KeepsAllBut.setMem (h : KeepsAllBut w s t) (hw : .mem ∈ w) {m : Memory} (hfont : m.font = t.mem.font) :
    KeepsAllBut w s (t.setMem m) := by
  intro item hitem
  cases item with
  | mem => exact absurd hw hitem
  | inputs =>
    obtain ⟨hcfg, hf, hrnd, hdraws⟩ := h .inputs hitem
    exact ⟨hcfg, hfont.trans hf, hrnd, hdraws⟩
  | _ => exact h _ hitem

/-- A new count over the same slots, the effect of a pop. -/
theorem KeepsAllBut.setCount (h : KeepsAllBut w s t) (hw : .sp ∈ w) (n : Fin 17) :
    KeepsAllBut w s (t.setStack t.stk n) := by
  intro item hitem
  cases item with
  | sp => exact absurd hw hitem
  | _ => exact h _ hitem

theorem KeepsAllBut.setStack (h : KeepsAllBut w s t) (hstk : .stk ∈ w) (hsp : .sp ∈ w) (slots : Vector Word 16)
    (n : Fin 17) : KeepsAllBut w s (t.setStack slots n) := by
  intro item hitem
  cases item with
  | stk => exact absurd hstk hitem
  | sp => exact absurd hsp hitem
  | _ => exact h _ hitem

theorem KeepsAllBut.raise (h : KeepsAllBut w s t) (herr : .err ∈ w) (hinfo : .errInfo ∈ w) (f : Fatal) :
    KeepsAllBut w s (t.raise f) := by
  intro item hitem
  cases item with
  | err => exact absurd herr hitem
  | errInfo => exact absurd hinfo hitem
  | _ => exact h _ hitem

end Frames

/-! ### The ways an instruction that can raise may end (R285) -/

theorem execRet_cases (s : State) :
    (∃ f, execRet s = .next (s.raise f)) ∨
    ∃ j : Fin 16, s.sp = j.succ ∧ execRet s = .next ((s.setStack s.stk j.castSucc).setPc s.stk[j]) := by
  by_cases h : s.sp.val = 0
  · exact .inl ⟨.stackUnderflow, by simp [execRet, s.pop_empty h]⟩
  · have hlt := s.sp.isLt
    exact .inr ⟨⟨s.sp.val - 1, by omega⟩, Fin.ext (by simp; omega), by simp [execRet, s.pop_ok h]⟩

theorem execCall_cases (nnn : Addr) (s : State) :
    (∃ f, execCall nnn s = .next (s.raise f)) ∨
    ∃ j : Fin 16, s.sp = j.castSucc ∧
      execCall nnn s = .next ((s.setStack (s.stk.set j s.pc) j.succ).setPc (zextAddr nnn)) := by
  by_cases h : s.sp.val < 16
  · exact .inr ⟨⟨s.sp.val, h⟩, rfl, by simp [execCall, s.push_ok _ h]⟩
  · have hfull : s.sp.val = 16 := by omega
    exact .inl ⟨.stackOverflow s.pc, by simp [execCall, s.push_full _ hfull]⟩

theorem execDrw_cases (x y : Reg) (n : Nat) (s : State) :
    (∃ f, execDrw x y n s = .next (s.raise f)) ∨
    ∃ p coll, execDrw x y n s = .next ((s.setPx p).setReg vfIndex (collisionFlag coll)) := by
  unfold execDrw
  split
  · exact .inl ⟨_, rfl⟩
  · exact .inr ⟨_, _, rfl⟩

theorem execLdB_cases (x : Reg) (s : State) :
    (∃ f, execLdB x s = .next (s.raise f)) ∨
    ∃ bs : List Byte, s.base + bs.length ≤ 4096 ∧ execLdB x s = .next (s.setMem (s.mem.writeList s.base bs)) := by
  by_cases h : s.base + (bcdDigits (s.reg x)).length ≤ 4096
  · exact .inr ⟨bcdDigits (s.reg x), h, by simp [execLdB, State.orRaise, s.writeBytes_ok (.inr h)]⟩
  · have herror := s.writeBytes_error (by simp) (Nat.lt_of_not_le h)
    exact .inl ⟨_, by rw [execLdB, herror, State.orRaise]⟩

theorem State.zeroStored_cases (s : State) (x : Reg) :
    (s.cfg.storeZeroesRegs = false ∧ s.zeroStored x = s) ∨
    (s.cfg.storeZeroesRegs = true ∧ s.zeroStored x = s.setRegsUpTo x fun _ => 0#8) := by
  cases h : s.cfg.storeZeroesRegs <;> simp [State.zeroStored, h]

theorem execStoreRegs_cases (x : Reg) (s : State) :
    (∃ f, execStoreRegs x s = .next (s.raise f)) ∨
    ∃ bs : List Byte, s.base + bs.length ≤ 4096 ∧
      ((s.cfg.storeZeroesRegs = false ∧ execStoreRegs x s = .next (s.setMem (s.mem.writeList s.base bs))) ∨
       (s.cfg.storeZeroesRegs = true ∧
        execStoreRegs x s = .next ((s.setMem (s.mem.writeList s.base bs)).setRegsUpTo x fun _ => 0#8))) := by
  by_cases h : s.base + (s.regsUpTo x).length ≤ 4096
  · have hstored : execStoreRegs x s =
        .next ((s.setMem (s.mem.writeList s.base (s.regsUpTo x))).zeroStored x) := by
      rw [execStoreRegs, s.writeBytes_ok (.inr h)]
    obtain ⟨hstrap, hzero⟩ | ⟨hstrap, hzero⟩ :=
      (s.setMem (s.mem.writeList s.base (s.regsUpTo x))).zeroStored_cases x <;> rw [hzero] at hstored
    · exact .inr ⟨_, h, .inl ⟨hstrap, hstored⟩⟩
    · exact .inr ⟨_, h, .inr ⟨hstrap, hstored⟩⟩
  · have herror := s.writeBytes_error (by simp) (Nat.lt_of_not_le h)
    exact .inl ⟨_, by rw [execStoreRegs, herror]⟩

theorem execLoadRegs_cases (x : Reg) (s : State) :
    (∃ f, execLoadRegs x s = .next (s.raise f)) ∨ ∃ bs, execLoadRegs x s = .next (s.setRegsUpTo x bs) := by
  unfold execLoadRegs
  split
  · exact .inl ⟨_, rfl⟩
  · exact .inr ⟨_, rfl⟩

/-- Every instruction completes (R123): it answers a next state, an error among them. -/
theorem exec_completes (i : Instr) (s : State) : ∃ t, exec i s = .next t := by
  cases i with
  | ret => obtain ⟨f, h⟩ | ⟨j, -, h⟩ := execRet_cases s <;> exact ⟨_, h⟩
  | call nnn => obtain ⟨f, h⟩ | ⟨j, -, h⟩ := execCall_cases nnn s <;> exact ⟨_, h⟩
  | drw x y n => obtain ⟨f, h⟩ | ⟨p, coll, h⟩ := execDrw_cases x y n s <;> exact ⟨_, h⟩
  | ldB x => obtain ⟨f, h⟩ | ⟨bs, -, h⟩ := execLdB_cases x s <;> exact ⟨_, h⟩
  | storeRegs x => obtain ⟨f, h⟩ | ⟨bs, -, ⟨-, h⟩ | ⟨-, h⟩⟩ := execStoreRegs_cases x s <;> exact ⟨_, h⟩
  | loadRegs x => obtain ⟨f, h⟩ | ⟨bs, h⟩ := execLoadRegs_cases x s <;> exact ⟨_, h⟩
  | _ => exact ⟨_, rfl⟩

/-! ### The write sets (R43) -/

/-- Settles O52, instruction by instruction: each is a chain of state operations, and each operation keeps what its rule says. -/
theorem instructionsWriteOnlyTheirItems : Obligations.InstructionsWriteOnlyTheirItems := by
  intro i s t h
  have hrefl := KeepsAllBut.refl
  cases i with
  | cls => cases h; exact (hrefl _ s).setPx (by simp) _
  | ret =>
    obtain ⟨f, hexec⟩ | ⟨j, -, hexec⟩ := execRet_cases s <;> cases hexec.symm.trans h
    · exact (hrefl _ s).raise (by simp) (by simp) f
    · exact ((hrefl _ s).setCount (by simp) _).setPc (by simp) _
  | call nnn =>
    obtain ⟨f, hexec⟩ | ⟨j, -, hexec⟩ := execCall_cases nnn s <;> cases hexec.symm.trans h
    · exact (hrefl _ s).raise (by simp) (by simp) f
    · exact ((hrefl _ s).setStack (by simp) (by simp) _ _).setPc (by simp) _
  | drw x y n =>
    obtain ⟨f, hexec⟩ | ⟨p, coll, hexec⟩ := execDrw_cases x y n s <;> cases hexec.symm.trans h
    · exact (hrefl _ s).raise (by simp) (by simp) f
    · exact ((hrefl _ s).setPx (by simp) p).setReg (by simp) _ _
  | ldB x =>
    obtain ⟨f, hexec⟩ | ⟨bs, -, hexec⟩ := execLdB_cases x s <;> cases hexec.symm.trans h
    · exact (hrefl _ s).raise (by simp) (by simp) f
    · exact (hrefl _ s).setMem (by simp) (Memory.writeList_font ..)
  | storeRegs x =>
    obtain ⟨f, hexec⟩ | ⟨bs, -, ⟨hstrap, hexec⟩ | ⟨hstrap, hexec⟩⟩ := execStoreRegs_cases x s <;>
      cases hexec.symm.trans h
    · exact (hrefl _ s).raise (by simp) (by simp) f
    · exact (hrefl _ s).setMem (by simp [hstrap]) (Memory.writeList_font ..)
    · exact ((hrefl _ s).setMem (by simp [hstrap]) (Memory.writeList_font ..)).setRegsUpTo (by simp [hstrap]) x _
  | loadRegs x =>
    obtain ⟨f, hexec⟩ | ⟨bs, hexec⟩ := execLoadRegs_cases x s <;> cases hexec.symm.trans h
    · exact (hrefl _ s).raise (by simp) (by simp) f
    · exact (hrefl _ s).setRegsUpTo (by simp) x bs
  | jp | jpV0 => cases h; exact (hrefl _ s).setPc (by simp) _
  | seImm | sneImm | seReg | sneReg | skp | sknp => cases h; exact (hrefl _ s).skipIf (by simp) _
  | ldImm | addImm | ldReg | orReg | andReg | xorReg | rnd | ldVxDt => cases h; exact (hrefl _ s).setReg (by simp) _ _
  | addReg | sub | shr | subn | shl => cases h; exact (hrefl _ s).setRegThenFlag (by simp) _ _ _
  | ldI | addI | ldF => cases h; exact (hrefl _ s).setI (by simp) _
  | ldVxK x => cases h; exact (hrefl _ s).setWait (by simp) _
  | ldDtVx x => cases h; exact (hrefl _ s).setDt (by simp) _
  | ldStVx x => cases h; exact (hrefl _ s).setSt (by simp) _

/-! ### The writers of `VF` (R22) -/

theorem flagByte_eq_zero_or_one (p : Bool) : flagByte p = 0#8 ∨ flagByte p = 1#8 := by
  cases p
  · exact .inl rfl
  · exact .inr rfl

@[simp] theorem State.setRegThenFlag_vf (s : State) (x : Reg) (b f : Byte) : (s.setRegThenFlag x b f).reg 15#4 = f :=
  State.setReg_reg_same _ 15#4 f

theorem State.setReg_reg_change {s : State} {x r : Reg} {b : Byte} (h : (s.setReg x b).reg r ≠ s.reg r) : x = r := by
  by_contra hx
  exact h (s.setReg_reg_ne b (Ne.symm hx))

/-- `VF` is the last register, so a run of registers from `V[0]` reaches it only as its last. -/
theorem State.setRegsUpTo_vf_change {s : State} {x : Reg} {f : Nat → Byte}
    (h : (s.setRegsUpTo x f).reg 15#4 ≠ s.reg 15#4) : x = 15#4 := by
  have hx : 15 ≤ x.toNat := by
    by_contra hlt
    exact h (by rw [State.setRegsUpTo_reg]; exact if_neg hlt)
  bv_omega

theorem Fatal.err_ne_noError (f : Fatal) : f.err ≠ .noError := by cases f <;> simp [Fatal.err]

theorem execStoreRegs_vf_change {x : Reg} {s t : State} (h : execStoreRegs x s = .next t)
    (hvf : t.reg 15#4 ≠ s.reg 15#4) : x = 15#4 ∧ s.cfg.storeZeroesRegs = true := by
  obtain ⟨f, hexec⟩ | ⟨bs, -, ⟨-, hexec⟩ | ⟨hstrap, hexec⟩⟩ := execStoreRegs_cases x s <;>
    cases hexec.symm.trans h
  · exact absurd rfl hvf
  · exact absurd rfl hvf
  · exact ⟨State.setRegsUpTo_vf_change hvf, hstrap⟩

theorem execLoadRegs_vf_change {x : Reg} {s t : State} (h : execLoadRegs x s = .next t)
    (hvf : t.reg 15#4 ≠ s.reg 15#4) : x = 15#4 := by
  obtain ⟨f, hexec⟩ | ⟨bs, hexec⟩ := execLoadRegs_cases x s <;> cases hexec.symm.trans h
  · exact absurd rfl hvf
  · exact State.setRegsUpTo_vf_change hvf

theorem execDrw_vf {x y : Reg} {n : Nat} {s t : State} (h : execDrw x y n s = .next t) (hkept : t.err = s.err)
    (herr : s.err = .noError) : t.reg 15#4 = 0#8 ∨ t.reg 15#4 = 1#8 := by
  obtain ⟨f, hexec⟩ | ⟨p, coll, hexec⟩ := execDrw_cases x y n s <;> cases hexec.symm.trans h
  · exact absurd (hkept.trans herr) f.err_ne_noError
  · have hvf : ((s.setPx p).setReg vfIndex (collisionFlag coll)).reg 15#4 = flagByte coll := State.setReg_reg_same ..
    rw [hvf]
    exact flagByte_eq_zero_or_one coll

/-- Settles O53: an instruction without `V` in its write set keeps `VF`, one with a destination register writes that register
alone, and the six put a flag into it. -/
theorem flagRegisterWriters : Obligations.FlagRegisterWriters := by
  intro i s t h
  refine ⟨fun hvf => ?_, ?_, ?_⟩
  · have hkeeps := instructionsWriteOnlyTheirItems i s t h .v
    cases i with
    | addReg x y | sub x y | subn x y | shr x y | shl x y => exact .inl ⟨x, y, by simp⟩
    | drw x y n => exact .inr (.inl ⟨x, y, n, rfl⟩)
    | ldImm x kk | addImm x kk | rnd x kk =>
      cases h
      obtain rfl := State.setReg_reg_change hvf
      exact .inr (.inr (.inl ⟨kk, by simp⟩))
    | ldReg x y | orReg x y | andReg x y | xorReg x y =>
      cases h
      obtain rfl := State.setReg_reg_change hvf
      exact .inr (.inr (.inr (.inl ⟨y, by simp⟩)))
    | ldVxDt x =>
      cases h
      obtain rfl := State.setReg_reg_change hvf
      simp
    | loadRegs x => simp [execLoadRegs_vf_change h hvf]
    | storeRegs x => simp [execStoreRegs_vf_change h hvf]
    | _ => exact absurd (hkeeps (by simp) 15#4) hvf
  · rintro ⟨x, y, rfl | rfl | rfl | rfl | rfl⟩ <;> cases h <;> rw [State.setRegThenFlag_vf] <;>
      exact flagByte_eq_zero_or_one _
  · rintro ⟨x, y, n, rfl⟩
    exact execDrw_vf h

/-! ### The timers (R28) -/

theorem exec_keeps_dt {i : Instr} {s t : State} (h : exec i s = .next t) (hi : ∀ x, i ≠ .ldDtVx x) : t.dt = s.dt := by
  refine instructionsWriteOnlyTheirItems i s t h .dt ?_
  cases i with
  | ldDtVx x => exact absurd rfl (hi x)
  | storeRegs x => cases s.cfg.storeZeroesRegs <;> simp
  | _ => simp

theorem exec_keeps_st {i : Instr} {s t : State} (h : exec i s = .next t) (hi : ∀ x, i ≠ .ldStVx x) : t.st = s.st := by
  refine instructionsWriteOnlyTheirItems i s t h .st ?_
  cases i with
  | ldStVx x => exact absurd rfl (hi x)
  | storeRegs x => cases s.cfg.storeZeroesRegs <;> simp
  | _ => simp

/-- A load is ignored, raises before the first step, or writes a program that fits (R252). -/
theorem loadOp_cases (bytes : List Byte) (s : State) :
    loadOp bytes s = s ∨
    (s.started = false ∧ loadOp bytes s = s.raise (.memoryBoundsError 4096#16)) ∨
    (bytes.length ≤ 3584 ∧ loadOp bytes s = s.setMem (s.mem.writeList 512 bytes)) := by
  unfold loadOp
  split_ifs with hignored hlong
  · exact .inl rfl
  · simp only [not_or, Bool.not_eq_true] at hignored
    exact .inr (.inl ⟨hignored.2, rfl⟩)
  · exact .inr (.inr ⟨Nat.le_of_not_lt hlong, rfl⟩)

theorem tickOp_running {s : State} (h : s.err = .noError) :
    tickOp s = (s.setDt (decrement s.dt)).setSt (decrement s.st) := by
  simp [tickOp, h]

theorem keyOp_running (k : Key) {s : State} (h : s.err = .noError) : keyOp k s = s.press k := by
  simp [keyOp, h]

/-- Settles O55: the write sets leave each timer to the instruction that sets it; `reset` clears both, `tick` decrements both,
and `load` and `key` write neither. -/
theorem timersIncreaseOnlyWhenSet : Obligations.TimersIncreaseOnlyWhenSet := by
  refine ⟨fun i s t h => ⟨fun hdt => ?_, fun hst => ?_⟩, fun op s t h hstep => ?_⟩
  · by_contra hi
    have hkept := exec_keeps_dt h fun x e => hi ⟨x, e⟩
    simp [hkept] at hdt
  · by_contra hi
    have hkept := exec_keeps_st h fun x e => hi ⟨x, e⟩
    simp [hkept] at hst
  · cases op with
    | reset => cases h; exact ⟨Nat.zero_le _, Nat.zero_le _⟩
    | load bytes =>
      cases h
      obtain h | ⟨-, h⟩ | ⟨-, h⟩ := loadOp_cases bytes s <;> simp [h]
    | tick =>
      cases h
      by_cases herr : s.err = .noError
      · simp [tickOp_running herr, decrement_toNat]
      · simp [tickOp_halted s herr]
    | key k =>
      cases h
      by_cases herr : s.err = .noError
      · simp [keyOp_running k herr]
      · simp [keyOp_halted k s herr]
    | step rnd => exact absurd rfl (hstep rnd)

end Sys2Proof.Machine
end

section
/-! SUPPORT. The reset values (10_state.md R40), the machine's invariant (R25, R27, R32, R35, R37), and that every operation of the
driver completes and keeps it (45_host_operations.md R258).

The invariant reads no register, no timer and no pixel, so a write to one of these keeps it (`Inv.congr`). The writes to `PC`, the
stack, memory and the wait keep it in the states an instruction executes in (`Executing`): the fetch has advanced `PC` to at
most 4096, which a call may push and a skip may pass, and no error and no wait is pending. -/

namespace Sys2Proof.Machine

/-! ### The reset values (R40) -/

theorem Memory.unlisted_font (m : Memory) {k : Nat} (h : k < 80) : m.unlisted (0x50 + k) = m.font[k] := by
  rw [Memory.unlisted, dif_pos (by omega)]
  simp

theorem Memory.unlisted_outside_font (m : Memory) {a : Nat} (h : a < 0x50 ∨ 0x9F < a) : m.unlisted a = 0#8 := by
  rw [Memory.unlisted, dif_neg (by omega)]

theorem State.resetWith_read (cfg : Straps) (font : Vector Byte 80) (draws a : Nat) :
    (State.resetWith cfg font draws).mem.read a = (State.resetWith cfg font draws).mem.unlisted a := rfl

theorem State.resetWith_resetValues (cfg : Straps) (font : Vector Byte 80) (draws : Nat) :
    ResetValues (State.resetWith cfg font draws) where
  pc := rfl
  font k hk := by rw [State.resetWith_read, Memory.unlisted_font _ hk]
  otherMemory a ha := by rw [State.resetWith_read, Memory.unlisted_outside_font _ ha]
  registers x := by simp [State.reg, State.resetWith]
  index := rfl
  stack := ⟨rfl, fun j => by simp [State.resetWith]⟩
  timers := ⟨rfl, rfl⟩
  display c r := by simp [pixel, State.resetWith]
  keypad := ⟨fun j => by simp [State.resetWith], rfl⟩
  noWait := rfl
  noError := ⟨rfl, rfl⟩
  notStarted := rfl

/-- Settles O41: `reset` and the model's reset state are the same record of reset values, over different inputs. -/
theorem resetLeavesResetValues : Obligations.ResetLeavesResetValues :=
  ⟨fun s => ⟨s.resetOp, rfl, State.resetWith_resetValues .., rfl, rfl⟩, State.resetWith_resetValues .., rfl⟩

/-! ### What each state operation does to the invariant -/

section Invariant

variable {s t : State}

/-- A state with every item at its reset value meets the invariant, if its memory is canonical. -/
theorem ResetValues.inv (h : ResetValues s) (hmem : s.mem.wf) : Inv s where
  memory := hmem
  pcRange := by rw [h.pc]; decide
  stackRange j hj := by simp [h.stack.1] at hj
  oneKey j k hj := by simp [h.keypad.1 j] at hj
  latchDown k hk := by simp [h.keypad.2] at hk
  waiting hw := absurd h.noWait hw
  infoClear _ := h.noError.2

theorem State.resetWith_inv (cfg : Straps) (font : Vector Byte 80) (draws : Nat) :
    Inv (State.resetWith cfg font draws) :=
  (State.resetWith_resetValues cfg font draws).inv (State.resetWith_mem_wf cfg font draws)

/-- The items the invariant reads. -/
def State.guarded (s : State) :
    Memory × Word × Vector Word 16 × Fin 17 × Vector Bool 16 × Option Key × Option Reg × Err × Word × Bool :=
  (s.mem, s.pc, s.stk, s.sp, s.key, s.latch, s.wait, s.err, s.errInfo, s.started)

theorem Inv.congr (hs : Inv s) (h : t.guarded = s.guarded) : Inv t := by
  cases s
  cases t
  simp only [State.guarded, Prod.mk.injEq] at h
  obtain ⟨rfl, rfl, rfl, rfl, rfl, rfl, rfl, rfl, rfl, rfl⟩ := h
  exact { hs with }

theorem Inv.setRegsUpTo (hs : Inv s) (x : Reg) (f : Nat → Byte) : Inv (s.setRegsUpTo x f) :=
  hs.congr (State.setRegsUpTo_keeps State.guarded (fun _ _ _ => rfl) s x f)

theorem Inv.setPc (hs : Inv s) {w : Word} (hw : w.toNat ≤ 4350) : Inv (s.setPc w) := { hs with pcRange := hw }

theorem Inv.setMem (hs : Inv s) {m : Memory} (hm : m.wf) : Inv (s.setMem m) := { hs with memory := hm }

/-- A pop forgets the topmost valid entry and no other. -/
theorem Inv.popped (hs : Inv s) {j : Fin 16} (hj : s.sp = j.succ) : Inv (s.setStack s.stk j.castSucc) :=
  { hs with
    stackRange := fun k (hk : k.val < j.val) => hs.stackRange k (by rw [hj, Fin.val_succ]; omega) }

theorem Inv.pushed (hs : Inv s) {j : Fin 16} (hj : s.sp = j.castSucc) {w : Word} (hw : w.toNat ≤ 4096) :
    Inv (s.setStack (s.stk.set j w) j.succ) := by
  refine { hs with stackRange := fun k hk => ?_ }
  by_cases hkj : k = j
  · simpa [hkj] using hw
  · have hne : j.val ≠ k.val := fun e => hkj (Fin.ext e.symm)
    have hlt : k.val < s.sp.val := by
      simp only [State.setStack_sp, Fin.val_succ] at hk
      rw [hj, Fin.val_castSucc]
      omega
    simpa [hne] using hs.stackRange k hlt

theorem Inv.setWait (hs : Inv s) (herr : s.err = .noError) (hstarted : s.started = true) (w : Option Reg) :
    Inv (s.setWait w) :=
  { hs with waiting := fun _ => ⟨herr, hstarted⟩ }

/-- No raise happens while a wait is pending, so none leaves a halted machine waiting. -/
theorem Inv.raise (hs : Inv s) (hwait : s.wait = none) (f : Fatal) : Inv (s.raise f) :=
  { hs with
    waiting := fun hw => absurd hwait hw
    infoClear := fun he => absurd he f.err_ne_noError }

theorem Inv.start (hs : Inv s) : Inv s.start :=
  { hs with waiting := fun hw => ⟨(hs.waiting hw).1, rfl⟩ }

theorem Inv.press (hs : Inv s) (k : Key) : Inv (s.press k) := by
  refine { hs with oneKey := fun i j hi hj => ?_, latchDown := fun l hl => ?_ }
  · simp only [State.press_key, Fin.getElem_fin, onlyKey_getElem, decide_eq_true_eq] at hi hj
    exact Fin.ext (hi.trans hj.symm)
  · cases hl
    simp [onlyKey_getElem]

theorem Inv.resolveWait (hs : Inv s) (x : Reg) : Inv (s.resolveWait x) := by
  cases hlatch : s.latch with
  | none => rwa [s.resolveWait_none x hlatch]
  | some k =>
    rw [s.resolveWait_some x hlatch]
    exact { hs with
      latchDown := fun _ h => nomatch h
      waiting := fun h => absurd rfl h }

end Invariant

/-- Settles O48: the reset state has the reset values, and its memory lists nothing. -/
theorem resetMeetsInvariant : Obligations.ResetMeetsInvariant := State.resetWith_inv ..

/-! ### Instructions keep the invariant -/

theorem zextAddr_toNat (nnn : Addr) : (zextAddr nnn).toNat = nnn.toNat := by
  simp [zextAddr]
  omega

theorem zextAddr_le (nnn : Addr) : (zextAddr nnn).toNat ≤ 4350 := by
  rw [zextAddr_toNat]
  omega

/-- R25: the largest target of `JP V0, nnn` is 4095 + 255. -/
theorem State.jumpV0Target_le (s : State) (nnn : Addr) : (s.jumpV0Target nnn).toNat ≤ 4350 := by
  have hbyte : (zextByte (s.reg 0#4)).toNat = (s.reg 0#4).toNat := by simp [zextByte]; omega
  rw [State.jumpV0Target, BitVec.toNat_add, zextAddr_toNat, hbyte]
  omega

/-- A state in which an instruction executes, in a machine that meets the invariant. -/
structure Executing (s : State) : Prop where
  inv : Inv s
  advanced : s.pc.toNat ≤ 4096
  noError : s.err = .noError
  noWait : s.wait = none
  started : s.started = true

section

variable {s t : State}

theorem Executing.raise (hs : Executing s) (f : Fatal) : Inv (s.raise f) := hs.inv.raise hs.noWait f

theorem Executing.skipIf (hs : Executing s) (p : Bool) : Inv (s.skipIf p) := by
  have hpc := hs.advanced
  cases p with
  | true => exact hs.inv.setPc (by rw [BitVec.toNat_add]; simp; omega)
  | false => exact hs.inv

theorem exec_inv {i : Instr} (hs : Executing s) (h : exec i s = .next t) : Inv t := by
  have hinv := hs.inv
  cases i with
  | ret =>
    obtain ⟨f, hexec⟩ | ⟨j, hj, hexec⟩ := execRet_cases s <;> cases hexec.symm.trans h
    · exact hs.raise f
    · have hret : s.stk[j].toNat ≤ 4096 := hinv.stackRange j (by rw [hj, Fin.val_succ]; omega)
      exact (hinv.popped hj).setPc (by omega)
  | call nnn =>
    obtain ⟨f, hexec⟩ | ⟨j, hj, hexec⟩ := execCall_cases nnn s <;> cases hexec.symm.trans h
    · exact hs.raise f
    · exact (hinv.pushed hj hs.advanced).setPc (zextAddr_le nnn)
  | drw x y n =>
    obtain ⟨f, hexec⟩ | ⟨p, coll, hexec⟩ := execDrw_cases x y n s <;> cases hexec.symm.trans h
    · exact hs.raise f
    · exact hinv.congr rfl
  | ldB x =>
    obtain ⟨f, hexec⟩ | ⟨bs, hfits, hexec⟩ := execLdB_cases x s <;> cases hexec.symm.trans h
    · exact hs.raise f
    · exact hinv.setMem (Memory.writeList_wf hinv.memory hfits)
  | storeRegs x =>
    obtain ⟨f, hexec⟩ | ⟨bs, hfits, ⟨-, hexec⟩ | ⟨-, hexec⟩⟩ := execStoreRegs_cases x s <;>
      cases hexec.symm.trans h
    · exact hs.raise f
    · exact hinv.setMem (Memory.writeList_wf hinv.memory hfits)
    · exact (hinv.setMem (Memory.writeList_wf hinv.memory hfits)).setRegsUpTo x _
  | loadRegs x =>
    obtain ⟨f, hexec⟩ | ⟨bs, hexec⟩ := execLoadRegs_cases x s <;> cases hexec.symm.trans h
    · exact hs.raise f
    · exact hinv.setRegsUpTo x bs
  | jp nnn => cases h; exact hinv.setPc (zextAddr_le nnn)
  | jpV0 nnn => cases h; exact hinv.setPc (s.jumpV0Target_le nnn)
  | seImm | sneImm | seReg | sneReg | skp | sknp => cases h; exact hs.skipIf _
  | ldVxK x => cases h; exact hinv.setWait hs.noError hs.started (some x)
  | _ => cases h; exact hinv.congr rfl

/-! ### Steps and the driver's operations keep the invariant -/

/-- The start of a step that fetches, and the fetch's advance of `PC`. -/
theorem Inv.executing (hs : Inv s) (herr : s.err = .noError) (hwait : s.wait = none) (hpc : s.pc.toNat ≤ 4094)
    (rnd : Byte) : Executing (s.start.takeDraw rnd).advancePc := by
  have hadvanced : (s.pc + 2#16).toNat ≤ 4096 := by rw [BitVec.toNat_add]; simp; omega
  have hbegun : Inv (s.start.takeDraw rnd) := hs.start.congr rfl
  exact ⟨hbegun.setPc (by simp only [State.takeDraw_pc, State.start_pc]; omega), hadvanced, herr, hwait, rfl⟩

theorem execWord_inv {w : Word} (hs : Executing s) (h : execWord w s = .next t) : Inv t := by
  cases hw : decode w with
  | error e => rw [execWord_error s hw] at h; cases h; exact hs.raise _
  | ok i => rw [execWord_ok s hw] at h; exact exec_inv hs h

theorem stepOp_inv {rnd : Byte} (hs : Inv s) (h : stepOp rnd s = .next t) : Inv t := by
  by_cases herr : s.err = .noError
  · cases hwait : s.wait with
    | some x =>
      rw [stepOp_waiting rnd s x herr hwait] at h
      cases h
      exact hs.start.resolveWait x
    | none =>
      rw [stepOp_running rnd s herr hwait] at h
      obtain ⟨-, hrun⟩ | ⟨hpc, hrun⟩ := runInstr_cases (s.start.takeDraw rnd) <;> rw [hrun] at h
      · cases h
        exact (hs.start.congr (t := s.start.takeDraw rnd) rfl).raise hwait _
      · exact execWord_inv (hs.executing herr hwait hpc rnd) h
  · rw [stepOp_halted rnd s herr] at h
    cases h
    exact hs

theorem loadOp_inv (hs : Inv s) (bytes : List Byte) : Inv (loadOp bytes s) := by
  obtain h | ⟨hfresh, h⟩ | ⟨hfits, h⟩ := loadOp_cases bytes s <;> rw [h]
  · exact hs
  · have hwait : s.wait = none := by
      by_contra hw
      exact absurd (hs.waiting hw).2 (by simp [hfresh])
    exact hs.raise hwait _
  · exact hs.setMem (Memory.writeList_wf hs.memory (by omega))

theorem tickOp_inv (hs : Inv s) : Inv (tickOp s) := by
  by_cases herr : s.err = .noError
  · rw [tickOp_running herr]; exact hs.congr rfl
  · rwa [tickOp_halted s herr]

theorem keyOp_inv (hs : Inv s) (k : Key) : Inv (keyOp k s) := by
  by_cases herr : s.err = .noError
  · rw [keyOp_running k herr]; exact hs.press k
  · rwa [keyOp_halted k s herr]

theorem perform_inv {op : DriverOp} (hs : Inv s) (h : perform op s = .next t) : Inv t := by
  cases op with
  | reset => cases h; exact State.resetWith_inv ..
  | load bytes => cases h; exact loadOp_inv hs bytes
  | tick => cases h; exact tickOp_inv hs
  | key k => cases h; exact keyOp_inv hs k
  | step rnd => exact stepOp_inv hs h

end

/-- Settles O47: a step is a `step(rnd)` with the next free draw. -/
theorem stepKeepsInvariant : Obligations.StepKeepsInvariant :=
  fun _ _ hs h => stepOp_inv hs h

/-! ### Every sequence of operations completes (R258) -/

theorem execWord_completes (w : Word) (s : State) : ∃ t, execWord w s = .next t := by
  cases hw : decode w with
  | error e => exact ⟨_, execWord_error s hw⟩
  | ok i => rw [execWord_ok s hw]; exact exec_completes i s

theorem stepOp_completes (rnd : Byte) (s : State) : ∃ t, stepOp rnd s = .next t := by
  by_cases herr : s.err = .noError
  · cases hwait : s.wait with
    | some x => exact ⟨_, stepOp_waiting rnd s x herr hwait⟩
    | none =>
      rw [stepOp_running rnd s herr hwait]
      obtain ⟨-, h⟩ | ⟨-, h⟩ := runInstr_cases (s.start.takeDraw rnd)
      · exact ⟨_, h⟩
      · rw [h]; exact execWord_completes _ _
  · exact ⟨_, stepOp_halted rnd s herr⟩

theorem perform_completes (op : DriverOp) (s : State) : ∃ t, perform op s = .next t := by
  cases op with
  | step rnd => exact stepOp_completes rnd s
  | _ => exact ⟨_, rfl⟩

theorem runOps_completes (ops : List DriverOp) (s : State) : ∃ t, runOps ops s = .next t := by
  induction ops generalizing s with
  | nil => exact ⟨s, rfl⟩
  | cons op ops ih =>
    obtain ⟨u, hop⟩ := perform_completes op s
    obtain ⟨t, hops⟩ := ih u
    exact ⟨t, runOps_cons_next.mpr ⟨u, hop, hops⟩⟩

/-- Settles O49: the sequence completes, and the invariant goes through it operation by operation. -/
theorem driverSequencesKeepInvariant : Obligations.DriverSequencesKeepInvariant := by
  intro ops s hs
  obtain ⟨t, hrun⟩ := runOps_completes ops s
  exact ⟨t, hrun, runOps_invariant (fun _ _ _ _ hop hu => perform_inv hu hop) hrun hs⟩

end Sys2Proof.Machine
end

section
/-! SUPPORT. Self-modifying code (20_memory.md R75): a block store (42_index_memory.md R184) at the address of the next instruction
is what the next step executes. The fetch reads the memory the store left, and the store changes nothing else the fetch
depends on. -/

namespace Sys2Proof.Machine

/-! ### The step that executes (R120, R123) -/

theorem stepOp_executes {s : State} {i : Instr} (rnd : Byte) (hrun : Running s) (hpc : s.pc.toNat ≤ 4094)
    (hdecode : decode (WordAtPc s) = .ok i) :
    stepOp rnd s = exec i { StepBegun rnd s with pc := s.pc + 2#16 } := by
  obtain ⟨herr, hwait⟩ := hrun
  have hfetch : (s.start.takeDraw rnd).fetchWord = .ok (WordAtPc s) := State.fetchWord_ok _ hpc
  rw [stepOp_running rnd s herr hwait, runInstr, hfetch]
  exact execWord_ok _ hdecode

/-! ### The block store (R184) -/

theorem execStoreRegs_ok {x : Reg} {s : State} (h : s.base + x.toNat ≤ 4095) :
    execStoreRegs x s = .next ((s.setMem (s.mem.writeList s.base (s.regsUpTo x))).zeroStored x) := by
  have hfits : s.base + (s.regsUpTo x).length ≤ 4096 := by rw [State.regsUpTo_length]; omega
  rw [execStoreRegs, s.writeBytes_ok (.inr hfits)]

/-- Whatever a register write leaves alone, the zeroing leaves alone, under both settings of the strap. -/
theorem State.zeroStored_keeps {α : Type} (g : State → α) (hg : ∀ s x b, g (State.setReg s x b) = g s)
    (s : State) (x : Reg) : g (s.zeroStored x) = g s := by
  obtain ⟨-, h⟩ | ⟨-, h⟩ := s.zeroStored_cases x <;> rw [h]
  exact State.setRegsUpTo_keeps g hg s x _

@[simp] theorem State.zeroStored_mem (s : State) (x : Reg) : (s.zeroStored x).mem = s.mem :=
  s.zeroStored_keeps State.mem (fun _ _ _ => rfl) x
@[simp] theorem State.zeroStored_pc (s : State) (x : Reg) : (s.zeroStored x).pc = s.pc :=
  s.zeroStored_keeps State.pc (fun _ _ _ => rfl) x
@[simp] theorem State.zeroStored_wait (s : State) (x : Reg) : (s.zeroStored x).wait = s.wait :=
  s.zeroStored_keeps State.wait (fun _ _ _ => rfl) x
@[simp] theorem State.zeroStored_err (s : State) (x : Reg) : (s.zeroStored x).err = s.err :=
  s.zeroStored_keeps State.err (fun _ _ _ => rfl) x

/-- Each stored byte reads back as its register. -/
theorem Memory.read_writeList_regsUpTo (m : Memory) (s : State) (base : Nat) {x : Reg} {k : Nat} (hk : k ≤ x.toNat) :
    (m.writeList base (s.regsUpTo x)).read (base + k) = s.reg (BitVec.ofNat 4 k) := by
  have hinside : base ≤ base + k ∧ base + k < base + (s.regsUpTo x).length := by
    rw [State.regsUpTo_length]; omega
  rw [Memory.read_writeList, dif_pos hinside]
  simp only [Nat.add_sub_cancel_left]
  exact s.regsUpTo_getElem x k hk

/-! ### The fetch after the store (R75) -/

/-- A store of at least two registers to the address in `PC` makes the word there `V[0] V[1]`, big-endian (R65). -/
theorem wordAtPc_store {s : State} {x : Reg} (hx : 1 ≤ x.toNat) (hi : s.i = s.pc) :
    WordAtPc ((s.setMem (s.mem.writeList s.base (s.regsUpTo x))).zeroStored x) = s.reg 0#4 ++ s.reg 1#4 := by
  have hbase : s.base = s.pc.toNat := congrArg BitVec.toNat hi
  have hhigh := s.mem.read_writeList_regsUpTo s s.pc.toNat (x := x) (k := 0) (by omega)
  have hlow := s.mem.read_writeList_regsUpTo s s.pc.toNat hx
  rw [Nat.add_zero] at hhigh
  simp only [WordAtPc, State.zeroStored_mem, State.zeroStored_pc, State.setMem_mem, State.setMem_pc, hbase, hhigh, hlow]

/-- Settles O57: the store leaves the machine in RUN with `PC` where it was, so the step fetches the word just stored. -/
theorem storeIsSeenByNextFetch : Obligations.StoreIsSeenByNextFetch := by
  intro s t x rnd i hrun hx hi hfits hexec hdecode
  cases (execStoreRegs_ok hfits).symm.trans hexec
  have hpc : s.pc.toNat ≤ 4094 := by rw [← hi]; omega
  exact stepOp_executes rnd (by simpa [Running] using hrun) (by simpa using hpc) (by rwa [wordAtPc_store hx hi])

end Sys2Proof.Machine
end

section
/-! SUPPORT. A word and its fields (30_encoding.md R91 to R102): a word is packed from its own fields, words that agree under a
mask agree on the fields it covers, and the digits in which R102 lists the illegal words are fields. -/

namespace Sys2Proof

variable {w m v : Word}

/-! ### A word is packed from its fields (R91) -/

theorem packA_fields {op : BitVec 4} (hop : fieldOp w = op) : packA op (fieldNNN w) = w := by
  subst hop
  exact (BitVec.extractLsb'_append_extractLsb'_eq_extractLsb' rfl).trans BitVec.extractLsb'_eq_self

theorem packXK_fields {op : BitVec 4} {kk : Byte} (hop : fieldOp w = op) (hkk : fieldKK w = kk) :
    packXK op (fieldX w) kk = w := by
  subst hop hkk
  have hhigh : fieldOp w ++ fieldX w = w.extractLsb' 8 8 := BitVec.extractLsb'_append_extractLsb'_eq_extractLsb' rfl
  rw [packXK, hhigh]
  exact (BitVec.extractLsb'_append_extractLsb'_eq_extractLsb' rfl).trans BitVec.extractLsb'_eq_self

theorem packXY_fields {op n : BitVec 4} (hop : fieldOp w = op) (hn : fieldN w = n) :
    packXY op (fieldX w) (fieldY w) n = w := by
  have hlow : fieldY w ++ fieldN w = fieldKK w := BitVec.extractLsb'_append_extractLsb'_eq_extractLsb' rfl
  have hassoc := BitVec.append_assoc (x₁ := op ++ fieldX w) (x₂ := fieldY w) (x₃ := n)
  calc packXY op (fieldX w) (fieldY w) n
    _ = packXK op (fieldX w) (fieldY w ++ n) := by simpa [packXY, packXK] using hassoc
    _ = w := packXK_fields hop (hn ▸ hlow.symm)

/-! ### Words that agree under a mask (opcode_table.json) -/

/-- Words that agree under a mask agree on every field the mask covers. -/
theorem field_eq_of_masked {start len : Nat} (h : w &&& m = v &&& m)
    (hm : m.extractLsb' start len = BitVec.allOnes len) : w.extractLsb' start len = v.extractLsb' start len := by
  have hfield := congrArg (BitVec.extractLsb' start len) h
  rwa [BitVec.extractLsb'_and, BitVec.extractLsb'_and, hm, BitVec.and_allOnes, BitVec.and_allOnes] at hfield

/-! ### The illegal set by fields (R102) -/

theorem fieldOp_toNat (w : Word) : (fieldOp w).toNat = w.toNat / 4096 := by
  have := w.isLt
  rw [fieldOp, BitVec.extractLsb'_toNat, Nat.shiftRight_eq_div_pow]
  omega

theorem fieldN_toNat (w : Word) : (fieldN w).toNat = w.toNat % 16 := by
  simp [fieldN]

theorem fieldKK_toNat (w : Word) : (fieldKK w).toNat = w.toNat % 256 := by
  simp [fieldKK]

/-- R102 in the decoder's terms. -/
theorem illegalWord_iff : Machine.IllegalWord w ↔
    (fieldOp w = 0x0#4 ∧ w ≠ 0x00E0#16 ∧ w ≠ 0x00EE#16) ∨
    (fieldOp w = 0x5#4 ∧ fieldN w ≠ 0x0#4) ∨
    (fieldOp w = 0x9#4 ∧ fieldN w ≠ 0x0#4) ∨
    (fieldOp w = 0x8#4 ∧ fieldN w ∈ [0x8#4, 0x9#4, 0xA#4, 0xB#4, 0xC#4, 0xD#4, 0xF#4]) ∨
    (fieldOp w = 0xE#4 ∧ fieldKK w ∉ [0x9E#8, 0xA1#8]) ∨
    (fieldOp w = 0xF#4 ∧
      fieldKK w ∉ [0x07#8, 0x0A#8, 0x15#8, 0x18#8, 0x1E#8, 0x29#8, 0x33#8, 0x55#8, 0x65#8]) := by
  simp only [Machine.IllegalWord, ← fieldOp_toNat, ← fieldN_toNat, ← fieldKK_toNat]
  simp [BitVec.toNat_eq_nat]

end Sys2Proof
end

section
/-! SUPPORT. The decoder (30_encoding.md R93 to R102): it inverts the encoder, and its answer on every word is either the
well-formed instruction of that word or the refusal of an illegal word. -/

namespace Sys2Proof

open Machine

variable {w : Word} {i j : Instr}

/-! ### Decoding an encoded instruction (R93) -/

/-- The decoder selects on the fields that the format put there. `DRW` is the one instruction with an operand wider than its
field, which well-formedness bounds. -/
theorem decode_encode (h : WellFormed i = true) : decode (encode i) = .ok i := by
  cases i with
  | cls | ret => rfl
  | drw x y n =>
    have hn : n < 16 := of_decide_eq_true h
    simp [encode, decode, Nat.mod_eq_of_lt hn]
  | jp | call | ldI | jpV0 | seImm | sneImm | ldImm | addImm | rnd | seReg | sneReg => simp [encode, decode]
  | ldReg | orReg | andReg | xorReg | addReg | sub | shr | subn | shl => simp [encode, decode, decode8]
  | skp | sknp => simp [encode, decode, decodeE]
  | ldVxDt | ldVxK | ldDtVx | ldStVx | addI | ldF | ldB | storeRegs | loadRegs => simp [encode, decode, decodeF]

/-! ### What the decoder can answer -/

/-- A right answer to the word `w`: the well-formed instruction of `w`, or the refusal of `w` when `w` is illegal. -/
inductive Answers (w : Word) : Except DecodeReject Instr → Prop
  | accept {i : Instr} (wellFormed : WellFormed i = true) (encodes : encode i = w) : Answers w (.ok i)
  | refuse (illegal : IllegalWord w) : Answers w (.error (.illegal w))

theorem decode0_answers (hop : fieldOp w = 0x0#4) : Answers w (decode0 w) := by
  unfold decode0
  split_ifs with hcls hret
  · exact .accept rfl hcls.symm
  · exact .accept rfl hret.symm
  · exact .refuse (illegalWord_iff.mpr (by simp [*]))

theorem decode8_answers (hop : fieldOp w = 0x8#4) : Answers w (decode8 w) := by
  simp only [decode8]
  split_ifs
  case neg =>
    have hn : fieldN w ∈ [0x8#4, 0x9#4, 0xA#4, 0xB#4, 0xC#4, 0xD#4, 0xF#4] := by
      simp only [List.mem_cons, List.not_mem_nil, or_false]
      bv_omega
    exact .refuse (illegalWord_iff.mpr (by simp [hop, hn]))
  all_goals exact .accept rfl (packXY_fields hop ‹_›)

theorem decodeE_answers (hop : fieldOp w = 0xE#4) : Answers w (decodeE w) := by
  unfold decodeE
  split_ifs with hskp hsknp
  · exact .accept rfl (packXK_fields hop hskp)
  · exact .accept rfl (packXK_fields hop hsknp)
  · exact .refuse (illegalWord_iff.mpr (by simp [*]))

theorem decodeF_answers (hop : fieldOp w = 0xF#4) : Answers w (decodeF w) := by
  simp only [decodeF]
  split_ifs
  case neg => exact .refuse (illegalWord_iff.mpr (by simp [*]))
  all_goals exact .accept rfl (packXK_fields hop ‹_›)

/-- The sixteen families in order of `op`. -/
theorem decode_answers (w : Word) : Answers w (decode w) := by
  unfold decode
  refine iteInduction decode0_answers fun _ => ?_
  refine iteInduction (fun h => .accept rfl (packA_fields h)) fun _ => ?_
  refine iteInduction (fun h => .accept rfl (packA_fields h)) fun _ => ?_
  refine iteInduction (fun h => .accept rfl (packXK_fields h rfl)) fun _ => ?_
  refine iteInduction (fun h => .accept rfl (packXK_fields h rfl)) fun _ => ?_
  refine iteInduction (fun h => iteInduction (fun hn => .accept rfl (packXY_fields h hn))
    fun hn => .refuse (illegalWord_iff.mpr (by simp [h, hn]))) fun _ => ?_
  refine iteInduction (fun h => .accept rfl (packXK_fields h rfl)) fun _ => ?_
  refine iteInduction (fun h => .accept rfl (packXK_fields h rfl)) fun _ => ?_
  refine iteInduction decode8_answers fun _ => ?_
  refine iteInduction (fun h => iteInduction (fun hn => .accept rfl (packXY_fields h hn))
    fun hn => .refuse (illegalWord_iff.mpr (by simp [h, hn]))) fun _ => ?_
  refine iteInduction (fun h => .accept rfl (packA_fields h)) fun _ => ?_
  refine iteInduction (fun h => .accept rfl (packA_fields h)) fun _ => ?_
  refine iteInduction (fun h => .accept rfl (packXK_fields h rfl)) fun _ => ?_
  refine iteInduction (fun h => .accept (decide_eq_true (fieldN w).isLt) (packXY_fields h (by simp))) fun _ => ?_
  refine iteInduction decodeE_answers fun _ => ?_
  have hop : fieldOp w = 0xF#4 := by bv_omega
  exact decodeF_answers hop

/-- Each clause of R102 fails the selection in its own family. -/
theorem decode_of_illegalWord (h : IllegalWord w) : decode w = .error (.illegal w) := by
  obtain ⟨hop, hcls, hret⟩ | ⟨hop, hn⟩ | ⟨hop, hn⟩ | ⟨hop, hn⟩ | ⟨hop, hkk⟩ | ⟨hop, hkk⟩ := illegalWord_iff.mp h
  · simp [decode, decode0, hop, hcls, hret]
  · simp [decode, hop, hn]
  · simp [decode, hop, hn]
  · simp only [List.mem_cons, List.not_mem_nil, or_false] at hn
    obtain hn | hn | hn | hn | hn | hn | hn := hn <;> simp [decode, decode8, hop, hn]
  · simp only [List.mem_cons, List.not_mem_nil, or_false, not_or] at hkk
    simp [decode, decodeE, hop, hkk]
  · simp only [List.mem_cons, List.not_mem_nil, or_false, not_or] at hkk
    simp [decode, decodeF, hop, hkk]

/-! ### The opcode table (opcode_table.json) -/

open Laws.EncodeMatchesTable in
theorem encode_matches_row (i : Instr) : encode i &&& (tableRow i).2 = (tableRow i).1 := by
  cases i with
  | cls | ret => decide
  | jp | call | ldI | jpV0 => exact packA_mask ..
  | seImm | sneImm | ldImm | addImm | rnd => exact packXK_mask_high ..
  | drw => exact packXY_mask_high ..
  | seReg | sneReg | ldReg | orReg | andReg | xorReg | addReg | sub | shr | subn | shl => exact packXY_mask_ends ..
  | skp | sknp | ldVxDt | ldVxK | ldDtVx | ldStVx | addI | ldF | ldB | storeRegs | loadRegs =>
    exact packXK_mask_ends ..

/-- Every mask of the table covers `op`. -/
theorem fieldOp_mask (j : Instr) : fieldOp (tableRow j).2 = BitVec.allOnes 4 := by
  cases j <;> simp [tableRow, fieldOp]

/-- The masks of formats `XY` and `X` cover the sub-operation field. -/
theorem fieldN_mask : fieldN 0xF00F#16 = BitVec.allOnes 4 := by decide

theorem fieldKK_mask : fieldKK 0xF0FF#16 = BitVec.allOnes 8 := by decide

/-- A word that matches a row decodes to an instruction of that row: the row's mask covers the fields the decoder selects on,
so there the word agrees with the word of the row's instruction. -/
theorem decode_of_match (h : w &&& (tableRow j).2 = (tableRow j).1) :
    ∃ i, decode w = .ok i ∧ tableRow i = tableRow j := by
  have hagree : w &&& (tableRow j).2 = encode j &&& (tableRow j).2 := h.trans (encode_matches_row j).symm
  have hop : fieldOp w = fieldOp (encode j) := field_eq_of_masked hagree (fieldOp_mask j)
  have hn : fieldN (tableRow j).2 = BitVec.allOnes 4 → fieldN w = fieldN (encode j) := field_eq_of_masked hagree
  have hkk : fieldKK (tableRow j).2 = BitVec.allOnes 8 → fieldKK w = fieldKK (encode j) := field_eq_of_masked hagree
  cases j with
  | cls | ret =>
    obtain rfl : w = _ := BitVec.and_allOnes.symm.trans h
    exact ⟨_, rfl, rfl⟩
  | jp | call | ldI | jpV0 | seImm | sneImm | ldImm | addImm | rnd | drw =>
    simp [encode, decode, tableRow, hop]
  | seReg | sneReg => simp [encode, decode, tableRow, hop, hn fieldN_mask]
  | ldReg | orReg | andReg | xorReg | addReg | sub | shr | subn | shl =>
    simp [encode, decode, decode8, tableRow, hop, hn fieldN_mask]
  | skp | sknp => simp [encode, decode, decodeE, tableRow, hop, hkk fieldKK_mask]
  | ldVxDt | ldVxK | ldDtVx | ldStVx | addI | ldF | ldB | storeRegs | loadRegs =>
    simp [encode, decode, decodeF, tableRow, hop, hkk fieldKK_mask]

/-! ### The statements -/

theorem wellFormed_and_encode_of_decode (h : decode w = .ok i) : WellFormed i = true ∧ encode i = w := by
  obtain ⟨hwf, henc⟩ := h ▸ decode_answers w
  exact ⟨hwf, henc⟩

/-- Settles O1, through each format's fields. -/
theorem decodeInvertsEncode : Obligations.DecodeInvertsEncode :=
  fun _ => decode_encode

/-- Settles O2: the decoder accepts a word only as the instruction it is packed from. -/
theorem encodeInvertsDecode : Obligations.EncodeInvertsDecode :=
  fun _ _ => wellFormed_and_encode_of_decode

/-- Settles O3: an illegal word fails in its family, and the decoder refuses no other word. -/
theorem decodeRejectsExactlyIllegalWords : Obligations.DecodeRejectsExactlyIllegalWords := by
  intro w
  refine ⟨decode_of_illegalWord, fun hlegal => ?_⟩
  cases hw : decode w with
  | ok i => exact ⟨i, rfl⟩
  | error e =>
    cases hw ▸ decode_answers w with
    | refuse hillegal => exact absurd hillegal hlegal

/-- Settles O4: a decoded word matches its row because the encoder's words do, and a second row it matched would be the row of
what it decodes to. -/
theorem decodeFollowsTheOpcodeTable : Obligations.DecodeFollowsTheOpcodeTable := by
  refine ⟨fun w i hi => ⟨?_, fun j hj => ?_⟩, fun _ _ => decode_of_match⟩
  · obtain ⟨-, rfl⟩ := wellFormed_and_encode_of_decode hi
    exact encode_matches_row i
  · obtain ⟨i', hi', hrow⟩ := decode_of_match hj
    cases hi.symm.trans hi'
    exact hrow.symm

end Sys2Proof
end

section
/-! SUPPORT. The step and the control instructions (40_step_and_control.md R120 to R134): what a step in RUN answers for each way its
fetch and decode can end, pushes and pops by the slot they use, and returns, jumps, calls and skips over them. -/

namespace Sys2Proof.Machine

variable {s : State} {slot : Fin 16} {w : Word}

/-! ### The encoding of a well-formed instruction (R93) -/

theorem encodedAs_encode {i : Instr} (h : WellFormed i = true) : EncodedAs i (encode i) := ⟨rfl, decode_encode h⟩

/-! ### The step in RUN (R120 to R123) -/

theorem pc_advanced_toNat (h : s.pc.toNat ≤ 4094) : (s.pc + 2#16).toNat = s.pc.toNat + 2 := by
  bv_omega

theorem stepOp_execWord (rnd : Byte) (hrun : Running s) (hpc : s.pc.toNat ≤ 4094) :
    stepOp rnd s = execWord (WordAtPc s) { StepBegun rnd s with pc := s.pc + 2#16 } := by
  obtain ⟨herr, hwait⟩ := hrun
  have hfetch : (s.start.takeDraw rnd).fetchWord = .ok (WordAtPc s) := State.fetchWord_ok _ hpc
  rw [stepOp_running rnd s herr hwait, runInstr, hfetch]
  rfl

theorem stepOp_fetchRaises (rnd : Byte) (hrun : Running s) (hpc : 4094 < s.pc.toNat) : FetchRaises rnd s := by
  obtain ⟨herr, hwait⟩ := hrun
  have hfetch := (s.start.takeDraw rnd).fetchWord_error hpc
  rw [FetchRaises, stepOp_running rnd s herr hwait, runInstr, hfetch]
  rfl

/-- Settles O50: every arm of `exec` and every case of R120 ends in a next state. -/
theorem everyInstructionCompletes : Obligations.EveryInstructionCompletes :=
  ⟨exec_completes, fun s => stepOp_completes _ s⟩

/-- Settles O6: the model's own step is `step(rnd)` with the next free draw. -/
theorem stepRunsDecodedInstruction : Obligations.StepRunsDecodedInstruction :=
  fun _ _ hrun hpc hdecode =>
    ⟨stepOp_executes _ hrun hpc hdecode, pc_advanced_toNat hpc, fun rnd => stepOp_executes rnd hrun hpc hdecode⟩

/-- Settles O7: the fetch's check fails before `PC` advances. -/
theorem fetchAboveMemoryRaises : Obligations.FetchAboveMemoryRaises :=
  fun _ => stepOp_fetchRaises

/-- Settles O8: the fetch advances `PC` and hands the word to the decoder, which refuses it. -/
theorem illegalWordRaisesDecodeError : Obligations.IllegalWordRaisesDecodeError := by
  intro s rnd hrun hpc hillegal
  rw [stepOp_execWord rnd hrun hpc]
  exact execWord_error _ (decode_of_illegalWord hillegal)

/-! ### The stack by slots (R124, R125) -/

theorem State.push_slot (w : Word) (h : s.sp = slot.castSucc) :
    s.push w = .ok (s.setStack (s.stk.set slot w) slot.succ) := by
  have hroom : s.sp.val < 16 := by simp [h]
  simp [s.push_ok w hroom, h, Fin.succ]

theorem State.pop_slot (h : s.sp = slot.succ) (hw : s.stk[slot] = w) :
    s.pop = .ok (w, s.setStack s.stk slot.castSucc) := by
  have hfilled : s.sp.val ≠ 0 := by simp [h]
  simp [s.pop_ok hfilled, h, ← hw, Fin.castSucc, Fin.castAdd, Fin.castLE]

/-- Settles O56: `b` goes to the slot above `a`, so it comes back first and leaves `a` on top. -/
theorem stackRoundTrip : Obligations.StackRoundTrip := by
  intro s a b hroom
  have hlower : s.sp.val < 16 := by omega
  have hupper : s.sp.val + 1 < 16 := by omega
  refine ⟨_, _, _, _, s.push_slot a (slot := ⟨s.sp, hlower⟩) rfl, State.push_slot b (slot := ⟨s.sp + 1, hupper⟩) rfl,
    State.pop_slot (slot := ⟨s.sp + 1, hupper⟩) rfl ?_, State.pop_slot (slot := ⟨s.sp, hlower⟩) rfl ?_, rfl⟩
  · simp
  · simp

/-! ### Return and call (R127, R129) -/

theorem exec_ret_slot (h : s.sp = slot.succ) :
    exec .ret s = .next ((s.setStack s.stk slot.castSucc).setPc s.stk[slot]) := by
  rw [exec, execRet, State.pop_slot h rfl]

theorem exec_ret_empty (h : s.sp.val = 0) : exec .ret s = .next (s.raise .stackUnderflow) := by
  rw [exec, execRet, s.pop_empty h]

theorem exec_call_slot (nnn : Addr) (h : s.sp = slot.castSucc) :
    exec (.call nnn) s = .next ((s.setStack (s.stk.set slot s.pc) slot.succ).setPc (zextAddr nnn)) := by
  rw [exec, execCall, State.push_slot _ h]

theorem exec_call_full (nnn : Addr) (h : s.sp.val = 16) :
    exec (.call nnn) s = .next (s.raise (.stackOverflow s.pc)) := by
  rw [exec, execCall, s.push_full _ h]

/-- Settles O11: a return is a pop and a jump; what it popped faults only when it is fetched from. -/
theorem retPopsIntoPc : Obligations.RetPopsIntoPc := by
  refine ⟨encodedAs_encode rfl, fun s top hsp => ?_, fun _ => exec_ret_empty⟩
  exact ⟨_, exec_ret_slot (Fin.ext hsp), rfl, rfl, ((KeepsAllBut.refl _ s).setCount (by simp) _).setPc (by simp) _,
    stepOp_fetchRaises⟩

/-- Settles O13: a call is a push of the advanced `PC` and a jump, or the push's error. -/
theorem callPushesReturnAddress : Obligations.CallPushesReturnAddress := by
  refine fun nnn s => ⟨encodedAs_encode rfl, fun slot hsp => ?_, exec_call_full nnn⟩
  refine ⟨_, exec_call_slot nnn (Fin.ext hsp), zextAddr_toNat nnn, rfl, ?_, fun j hj => ?_, ?_⟩
  · simp
  · have hne : slot.val ≠ j.val := fun e => hj (Fin.ext e.symm)
    simp [hne]
  · exact ((KeepsAllBut.refl _ s).setStack (by simp) (by simp) _ _).setPc (by simp) _

/-! ### Jumps (R128, R134) -/

/-- R134: the largest sum, 4095 + 255, fits 16 bits. -/
theorem State.jumpV0Target_toNat (s : State) (nnn : Addr) :
    (s.jumpV0Target nnn).toNat = nnn.toNat + (s.reg 0#4).toNat := by
  have hbyte : (zextByte (s.reg 0#4)).toNat = (s.reg 0#4).toNat := BitVec.toNat_setWidth_of_le (by decide)
  rw [State.jumpV0Target, BitVec.toNat_add, zextAddr_toNat, hbyte]
  omega

/-- Beside the inputs, the start of a step changes `STARTED` alone and a jump `PC` alone; here both have the value they get. -/
theorem jump_to_itself_keeps_items {rnd : Byte} (hstarted : s.started = true) (hpc : w = s.pc) :
    KeepsAllBut [.inputs] s (State.setPc { StepBegun rnd s with pc := s.pc + 2#16 } w) := by
  intro item hitem
  cases item with
  | pc => exact hpc
  | started => exact hstarted.symm
  | inputs => exact absurd (by simp) hitem
  | mem | v => exact fun _ => rfl
  | px => exact fun _ _ => rfl
  | _ => rfl

/-- Settles O12: 4095 is the one target a fetch cannot read from, and `JP a` at `a` writes to `PC` what it held. -/
theorem jumpSetsPc : Obligations.JumpSetsPc := by
  intro nnn s
  have hencoded : EncodedAs (.jp nnn) (0x1#4 ++ nnn) := encodedAs_encode rfl
  refine ⟨hencoded, ⟨s.setPc (zextAddr nnn), rfl, zextAddr_toNat nnn, (KeepsAllBut.refl _ s).setPc (by simp) _,
    fun rnd hrun hend => ?_⟩, fun rnd hrun hstarted hself hpc hword => ?_⟩
  · have htarget : (s.setPc (zextAddr nnn)).pc.toNat = 4095 := (zextAddr_toNat nnn).trans hend
    have hraise := stepOp_fetchRaises rnd hrun (by omega)
    rwa [FetchRaises, htarget] at hraise
  · obtain ⟨-, hdecode⟩ := hencoded
    have htarget : zextAddr nnn = s.pc := BitVec.eq_of_toNat_eq ((zextAddr_toNat nnn).trans hself.symm)
    have hjump := stepOp_executes rnd hrun hpc (i := .jp nnn) (by rw [hword, hdecode])
    exact ⟨_, hjump, jump_to_itself_keeps_items hstarted htarget⟩

/-- Settles O14: the target is an exact sum, which faults only when it is fetched from. -/
theorem jumpV0SetsPcToExactSum : Obligations.JumpV0SetsPcToExactSum :=
  fun nnn s => ⟨encodedAs_encode rfl, _, rfl, s.jumpV0Target_toNat nnn, (KeepsAllBut.refl _ s).setPc (by simp) _,
    stepOp_fetchRaises⟩

/-! ### Skips (R126, R130 to R133) -/

/-- R126: a skip moves `PC` by 2 or not at all, and writes nothing else. -/
theorem skipIf_moves_pc (s : State) {p : Bool} (hpc : (if p then s.pc + 2#16 else s.pc) = w) :
    ∃ t, (.next (s.skipIf p) : Result) = .next t ∧ t.pc = w ∧ KeepsAllBut [.pc] s t :=
  ⟨_, rfl, (s.skipIf_pc p).trans hpc, (KeepsAllBut.refl _ s).skipIf (by simp) p⟩

/-- The skip on equality of two bytes, the predicate of `SE`. -/
theorem skipIf_beq_moves_pc (s : State) (a b : Byte) :
    ∃ t, (.next (s.skipIf (a == b)) : Result) = .next t ∧
      t.pc = (if a = b then s.pc + 2#16 else s.pc) ∧ KeepsAllBut [.pc] s t :=
  skipIf_moves_pc s (by simp)

/-- The skip on inequality of two bytes, the predicate of `SNE`. -/
theorem skipIf_bne_moves_pc (s : State) (a b : Byte) :
    ∃ t, (.next (s.skipIf (a != b)) : Result) = .next t ∧
      t.pc = (if a = b then s.pc else s.pc + 2#16) ∧ KeepsAllBut [.pc] s t :=
  skipIf_moves_pc s (by simp)

/-- Settles O15: `SE` tests `V[x]` against `kk` for equality and `SNE` for inequality. -/
theorem immediateSkips : Obligations.ImmediateSkips :=
  fun x kk s => ⟨encodedAs_encode rfl, encodedAs_encode rfl, skipIf_beq_moves_pc s (s.reg x) kk,
    skipIf_bne_moves_pc s (s.reg x) kk⟩

/-- Settles O16: as O15, against `V[y]`. -/
theorem registerSkips : Obligations.RegisterSkips :=
  fun x y s => ⟨encodedAs_encode rfl, encodedAs_encode rfl, skipIf_beq_moves_pc s (s.reg x) (s.reg y),
    skipIf_bne_moves_pc s (s.reg x) (s.reg y)⟩

end Sys2Proof.Machine
end

section
/-! SUPPORT. Loads, arithmetic, logic, shifts and random (41_alu.md R150 to R162): what a register write and a result followed by a
flag (R150) leave in the registers, stated once for every instruction that ends in one, and the value of each result and each
flag as a number. -/

namespace Sys2Proof.Machine

/-! ### One register written -/

theorem onlyRegs_setReg (s : State) (x : Reg) (b : Byte) : OnlyRegs [x] s (s.setReg x b) :=
  ⟨fun _ hr => s.setReg_reg_ne b (List.ne_of_not_mem_cons hr), (KeepsAllBut.refl _ s).setReg (by simp) x b⟩

theorem setReg_sets_value (s : State) (x : Reg) (b : Byte) :
    ∃ t, (.next (s.setReg x b) : Result) = .next t ∧ t.reg x = b ∧ OnlyRegs [x] s t :=
  ⟨_, rfl, s.setReg_reg_same x b, onlyRegs_setReg s x b⟩

theorem setReg_sets_bits (s : State) (x : Reg) {b : Byte} {p : Nat → Bool} (hbits : ∀ j, b.getLsbD j = p j) :
    ∃ t, (.next (s.setReg x b) : Result) = .next t ∧ (∀ j, (t.reg x).getLsbD j = p j) ∧ OnlyRegs [x] s t :=
  ⟨_, rfl, by simpa using hbits, onlyRegs_setReg s x b⟩

/-- Settles O18: either load is one register write. -/
theorem loadsIntoARegister : Obligations.LoadsIntoARegister :=
  fun x y kk s => ⟨⟨encodedAs_encode rfl, setReg_sets_value s x kk⟩,
    encodedAs_encode rfl, setReg_sets_value s x (s.reg y)⟩

/-- Settles O19: the sum of two bytes wraps, and it is written to `V[x]` alone. -/
theorem addImmediateWraps : Obligations.AddImmediateWraps := by
  refine fun x kk s => ⟨encodedAs_encode rfl, _, rfl, ?_, onlyRegs_setReg s x _⟩
  rw [State.setReg_reg_same, BitVec.toNat_add]

/-- Settles O20: each bit of the result is the operation on the bits of the operands. -/
theorem bitwiseLogic : Obligations.BitwiseLogic :=
  fun x _ s => ⟨⟨encodedAs_encode rfl, setReg_sets_bits s x fun _ => BitVec.getLsbD_or⟩,
    ⟨encodedAs_encode rfl, setReg_sets_bits s x fun _ => BitVec.getLsbD_and⟩,
    ⟨encodedAs_encode rfl, setReg_sets_bits s x fun _ => BitVec.getLsbD_xor⟩⟩

/-- Settles O25: the mask is a bitwise and with the draw, which the state holds. -/
theorem randomIsMaskedDraw : Obligations.RandomIsMaskedDraw :=
  fun x _ s => ⟨encodedAs_encode rfl, setReg_sets_bits s x fun _ => BitVec.getLsbD_and⟩

/-! ### Flags as numbers (R22, R157 to R161) -/

theorem flagByte_toNat (p : Bool) : (flagByte p).toNat = p.toNat := by cases p <;> rfl

theorem carryFlag_toNat (a b : Byte) : (carryFlag a b).toNat = if a.toNat + b.toNat > 255 then 1 else 0 := by
  rw [carryFlag, flagByte_toNat, Bool.toNat, Bool.cond_decide]

theorem noBorrowFlag_toNat (a b : Byte) : (noBorrowFlag a b).toNat = if a.toNat ≥ b.toNat then 1 else 0 := by
  rw [noBorrowFlag, flagByte_toNat, Bool.toNat, Bool.cond_decide]

theorem shrOutFlag_toNat (b : Byte) : (shrOutFlag b).toNat = b.toNat % 2 := by
  rw [shrOutFlag, flagByte_toNat, BitVec.getLsbD, Nat.toNat_testBit]
  omega

theorem shlOutFlag_toNat (b : Byte) : (shlOutFlag b).toNat = b.toNat / 128 := by
  rw [shlOutFlag, flagByte_toNat, BitVec.getLsbD, Nat.toNat_testBit]
  omega

/-! ### Result, then flag (R150) -/

theorem onlyRegs_setRegThenFlag (s : State) (x : Reg) (r f : Byte) :
    OnlyRegs [x, 15#4] s (s.setRegThenFlag x r f) := by
  refine ⟨fun i hi => ?_, (KeepsAllBut.refl _ s).setRegThenFlag (by simp) x r f⟩
  simp only [List.mem_cons, List.not_mem_nil, or_false, not_or] at hi
  obtain ⟨hix, hivf⟩ := hi
  simp [State.setRegThenFlag_reg, vfIndex, hix, hivf]

/-- R150: the flag is written last, so `VF` holds it for every `x`, and `V[x]` holds the result for every other `x`. -/
theorem setRegThenFlag_sets_result_and_flag (s : State) (x : Reg) {r f : Byte} {result flag : Nat}
    (hresult : r.toNat = result) (hflag : f.toNat = flag) :
    ∃ t, (.next (s.setRegThenFlag x r f) : Result) = .next t ∧ (x ≠ 15#4 → (t.reg x).toNat = result) ∧
      (t.reg 15#4).toNat = flag ∧ OnlyRegs [x, 15#4] s t := by
  refine ⟨_, rfl, fun hx => ?_, ?_, onlyRegs_setRegThenFlag s x r f⟩
  · simp [State.setRegThenFlag_reg, vfIndex, hx, hresult]
  · rw [State.setRegThenFlag_vf, hflag]

theorem byte_sub_toNat (a b : Byte) : (a - b).toNat = (256 + a.toNat - b.toNat) % 256 := by
  bv_omega

/-- Settles O21: the sum wraps, and the carry is taken from the operands before it is written. -/
theorem addRegisterSetsSumAndCarry : Obligations.AddRegisterSetsSumAndCarry :=
  fun x y s => ⟨encodedAs_encode rfl,
    setRegThenFlag_sets_result_and_flag s x (BitVec.toNat_add (s.reg x) (s.reg y)) (carryFlag_toNat _ _)⟩

/-- Settles O22: the difference and the borrow are those of `V[x] - V[y]`. -/
theorem subSetsDifferenceAndNoBorrow : Obligations.SubSetsDifferenceAndNoBorrow :=
  fun x y s => ⟨encodedAs_encode rfl,
    setRegThenFlag_sets_result_and_flag s x (byte_sub_toNat (s.reg x) (s.reg y)) (noBorrowFlag_toNat _ _)⟩

/-- Settles O23: the difference and the borrow are those of `V[y] - V[x]`. -/
theorem subnSetsDifferenceAndNoBorrow : Obligations.SubnSetsDifferenceAndNoBorrow :=
  fun x y s => ⟨encodedAs_encode rfl,
    setRegThenFlag_sets_result_and_flag s x (byte_sub_toNat (s.reg y) (s.reg x)) (noBorrowFlag_toNat _ _)⟩

theorem byte_shiftRight_one_toNat (b : Byte) : (b >>> 1).toNat = b.toNat / 2 := by
  rw [BitVec.toNat_ushiftRight, Nat.shiftRight_one]

theorem byte_shiftLeft_one_toNat (b : Byte) : (b <<< 1).toNat = 2 * b.toNat % 256 := by
  rw [BitVec.toNat_shiftLeft, Nat.shiftLeft_eq, Nat.mul_comm]

/-- Settles O24: both shifts read the source the strap selects; `SHR` loses its bit 0 to `VF` and `SHL` its bit 7. -/
theorem shiftsByOne : Obligations.ShiftsByOne := by
  intro x y s b hsource
  obtain rfl : b = s.shiftSource x y := hsource
  exact ⟨⟨encodedAs_encode rfl,
      setRegThenFlag_sets_result_and_flag s x (byte_shiftRight_one_toNat _) (shrOutFlag_toNat _)⟩,
    encodedAs_encode rfl,
      setRegThenFlag_sets_result_and_flag s x (byte_shiftLeft_one_toNat _) (shlOutFlag_toNat _)⟩

/-! ### The words the spec writes out -/

/-- Settles O5: the words are closed, and the decoder evaluates on each of them. -/
theorem specWordsDecode : Obligations.SpecWordsDecode := by
  unfold Obligations.SpecWordsDecode
  decide

end Sys2Proof.Machine
end

section
/-! SUPPORT. The index register and memory (42_index_memory.md R180 to R186): the values of `I` as numbers, the two ways each access
through `I` can end, and which bytes a write to memory leaves alone. An access past the end of memory is a raise, whose state is
`Raised` by definition. -/

namespace Sys2Proof.Machine

variable {s t : State} {x : Reg}

/-! ### The index register (R180 to R182) -/

/-- Settles O26: the address is extended with zeros, so its value stays. -/
theorem loadIndex : Obligations.LoadIndex :=
  fun nnn s => ⟨encodedAs_encode rfl, _, rfl, zextAddr_toNat nnn, (KeepsAllBut.refl _ s).setI (by simp) _⟩

theorem saturatingSum_toNat (i : Word) (b : Byte) : (saturatingSum i b).toNat = min (i.toNat + b.toNat) 0xFFFF := by
  unfold saturatingSum
  split
  · rw [BitVec.toNat_ofNat]; omega
  · simp; omega

/-- Settles O27: the sum is written to `I` and no flag is. -/
theorem addIndexSaturates : Obligations.AddIndexSaturates :=
  fun _ s => ⟨encodedAs_encode rfl, _, rfl, saturatingSum_toNat _ _, (KeepsAllBut.refl _ s).setI (by simp) _⟩

theorem byte_and_0x0F_toNat (b : Byte) : (b &&& 0x0F#8).toNat = b.toNat % 16 := by
  rw [BitVec.toNat_and]
  exact Nat.and_two_pow_sub_one_eq_mod b.toNat 4

/-- R182: the glyph of digit 15 begins at 0x9B, so neither the product nor the sum wraps. -/
theorem fontAddress_toNat (b : Byte) : (fontAddress b).toNat = 0x50 + b.toNat % 16 * 5 := by
  have hnibble : (zextByte (b &&& 0x0F#8)).toNat = b.toNat % 16 :=
    (BitVec.toNat_setWidth_of_le (by decide)).trans (byte_and_0x0F_toNat b)
  rw [fontAddress, BitVec.toNat_add, BitVec.toNat_mul, hnibble]
  simp
  omega

/-- Settles O28: the address is computed from the register alone. -/
theorem fontAddressOfLowNibble : Obligations.FontAddressOfLowNibble :=
  fun _ s => ⟨encodedAs_encode rfl, _, rfl, fontAddress_toNat _, (KeepsAllBut.refl _ s).setI (by simp) _⟩

/-! ### What a write to memory leaves (R63, R66) -/

theorem Memory.read_writeList_at (m : Memory) (base : Nat) {bs : List Byte} {k : Nat} (hk : k < bs.length) :
    (m.writeList base bs).read (base + k) = bs[k] := by
  have hinside : base ≤ base + k ∧ base + k < base + bs.length := by omega
  rw [Memory.read_writeList, dif_pos hinside]
  simp only [Nat.add_sub_cancel_left]

theorem bytesKeptOutside_writeList (s : State) (base : Nat) (bs : List Byte) :
    BytesKeptOutside base bs.length s (s.setMem (s.mem.writeList base bs)) :=
  fun a ha => s.mem.read_writeList_outside base a bs ha

theorem BytesKeptOutside.inside_of_changed {base count a : Nat} (h : BytesKeptOutside base count s t)
    (hchanged : t.mem.read a ≠ s.mem.read a) : base ≤ a ∧ a < base + count := by
  by_contra houtside
  exact hchanged (h a (by omega))

/-! ### The decimal store (R183) -/

theorem execLdB_ok (h : s.base + 2 ≤ 4095) :
    execLdB x s = .next (s.setMem (s.mem.writeList s.base (bcdDigits (s.reg x)))) := by
  have hfits : s.base + (bcdDigits (s.reg x)).length ≤ 4096 := by rw [bcdDigits_length]; omega
  rw [execLdB, s.writeBytes_ok (.inr hfits), State.orRaise]

theorem execLdB_error (h : 4095 < s.base + 2) :
    execLdB x s = .next (s.raise (.memoryBoundsError (BitVec.ofNat 16 (max s.base 4096)))) := by
  have hout : 4096 < s.base + (bcdDigits (s.reg x)).length := by rw [bcdDigits_length]; omega
  rw [execLdB, s.writeBytes_error (by simp) hout, State.orRaise]

/-- Settles O29: the digits are quotients and remainders of the byte as a number. -/
theorem bcdStoresThreeDigits : Obligations.BcdStoresThreeDigits := by
  refine fun x s => ⟨encodedAs_encode rfl, fun hfits => ?_, fun hout => execLdB_error hout⟩
  have hdigit {k : Nat} (hk : k < 3) := s.mem.read_writeList_at s.base (bs := bcdDigits (s.reg x)) hk
  refine ⟨_, execLdB_ok hfits, ?_, ?_, ?_, bytesKeptOutside_writeList s s.base (bcdDigits (s.reg x)),
    (KeepsAllBut.refl _ s).setMem (by simp) (Memory.writeList_font ..)⟩
  · exact (congrArg BitVec.toNat (hdigit (k := 0) (by omega))).trans BitVec.toNat_udiv
  · exact (congrArg BitVec.toNat (hdigit (k := 1) (by omega))).trans (by simp [bcdDigits])
  · exact (congrArg BitVec.toNat (hdigit (k := 2) (by omega))).trans BitVec.toNat_umod

/-! ### The block store (R184) -/

theorem execStoreRegs_error (h : 4095 < s.base + x.toNat) :
    execStoreRegs x s = .next (s.raise (.memoryBoundsError (BitVec.ofNat 16 (max s.base 4096)))) := by
  have hout : 4096 < s.base + (s.regsUpTo x).length := by rw [State.regsUpTo_length]; omega
  rw [execStoreRegs, s.writeBytes_error (by simp) hout]

theorem State.zeroStored_reg (s : State) (x r : Reg) :
    (s.zeroStored x).reg r = if s.cfg.storeZeroesRegs = true ∧ r.toNat ≤ x.toNat then 0#8 else s.reg r := by
  obtain ⟨hstrap, h⟩ | ⟨hstrap, h⟩ := s.zeroStored_cases x <;> rw [h]
  · simp [hstrap]
  · simp [hstrap, State.setRegsUpTo_reg]

theorem KeepsAllBut.zeroStored {w : List Item} (h : KeepsAllBut w s t) (hw : .v ∈ w) (x : Reg) :
    KeepsAllBut w s (t.zeroStored x) := by
  obtain ⟨-, hzero⟩ | ⟨-, hzero⟩ := t.zeroStored_cases x <;> rw [hzero]
  · exact h
  · exact h.setRegsUpTo hw x _

theorem bytesKeptOutside_stored (s : State) (x : Reg) :
    BytesKeptOutside s.base (x.toNat + 1) s ((s.setMem (s.mem.writeList s.base (s.regsUpTo x))).zeroStored x) := by
  rw [BytesKeptOutside, State.zeroStored_mem, ← s.regsUpTo_length x]
  exact bytesKeptOutside_writeList s s.base (s.regsUpTo x)

/-- Settles O30: the zeroing comes after the store and writes registers alone. -/
theorem blockStore : Obligations.BlockStore := by
  refine fun x s => ⟨encodedAs_encode rfl, fun hfits => ?_, fun hout => execStoreRegs_error hout⟩
  refine ⟨_, execStoreRegs_ok hfits, fun r hr => ?_, bytesKeptOutside_stored s x, State.zeroStored_reg _ x,
    ((KeepsAllBut.refl _ s).setMem (by simp) (Memory.writeList_font ..)).zeroStored (by simp) x⟩
  have hstored := s.mem.read_writeList_regsUpTo s s.base hr
  rw [BitVec.ofNat_toNat, BitVec.setWidth_eq] at hstored
  rwa [State.zeroStored_mem]

/-! ### The block load (R185) -/

theorem execLoadRegs_ok (h : s.base + x.toNat ≤ 4095) :
    execLoadRegs x s = .next (s.setRegsUpTo x fun k => s.mem.read (s.base + k)) := by
  rw [execLoadRegs, checkAccess_ok (.inr (by omega))]

theorem execLoadRegs_error (h : 4095 < s.base + x.toNat) :
    execLoadRegs x s = .next (s.raise (.memoryBoundsError (BitVec.ofNat 16 (max s.base 4096)))) := by
  rw [execLoadRegs, checkAccess_error (by omega) (by omega)]

/-- Settles O31: the load is a run of register writes, from bytes read before any of them. -/
theorem blockLoad : Obligations.BlockLoad :=
  fun x s => ⟨encodedAs_encode rfl, fun hfits => ⟨_, execLoadRegs_ok hfits, fun r => s.setRegsUpTo_reg x r _,
    (KeepsAllBut.refl _ s).setRegsUpTo (by simp) x _⟩, fun hout => execLoadRegs_error hout⟩

/-! ### The writers of memory (R77, R186) -/

theorem execLdB_bytesKept (h : execLdB x s = .next t) : BytesKeptOutside s.base 3 s t := by
  by_cases hfits : s.base + 2 ≤ 4095
  · cases (execLdB_ok hfits).symm.trans h
    exact bytesKeptOutside_writeList s s.base (bcdDigits (s.reg x))
  · cases (execLdB_error (Nat.lt_of_not_le hfits)).symm.trans h
    exact fun _ _ => rfl

theorem execStoreRegs_bytesKept (h : execStoreRegs x s = .next t) : BytesKeptOutside s.base (x.toNat + 1) s t := by
  by_cases hfits : s.base + x.toNat ≤ 4095
  · cases (execStoreRegs_ok hfits).symm.trans h
    exact bytesKeptOutside_stored s x
  · cases (execStoreRegs_error (Nat.lt_of_not_le hfits)).symm.trans h
    exact fun _ _ => rfl

@[simp] theorem tickOp_mem (s : State) : (tickOp s).mem = s.mem := by
  by_cases herr : s.err = .noError
  · rw [tickOp_running herr]; rfl
  · rw [tickOp_halted s herr]

@[simp] theorem keyOp_mem (k : Key) (s : State) : (keyOp k s).mem = s.mem := by
  by_cases herr : s.err = .noError
  · rw [keyOp_running k herr]; rfl
  · rw [keyOp_halted k s herr]

theorem loadOp_changed {bytes : List Byte} {a : Nat} (hchanged : (loadOp bytes s).mem.read a ≠ s.mem.read a) :
    s.started = false ∧ 512 ≤ a := by
  have hfresh : s.started = false := by
    by_contra hstarted
    exact hchanged (by rw [loadOp_started bytes s (by simpa using hstarted)])
  obtain h | ⟨-, h⟩ | ⟨-, h⟩ := loadOp_cases bytes s <;> rw [h] at hchanged
  · exact absurd rfl hchanged
  · exact absurd rfl hchanged
  · obtain ⟨hlow, -⟩ := (bytesKeptOutside_writeList s 512 bytes).inside_of_changed hchanged
    exact ⟨hfresh, hlow⟩

/-- Settles O54: the write sets leave memory to `LD B` and `LD [I]`, and each of these keeps every byte outside the bytes it
writes; `tick` and `key` write no memory. -/
theorem memoryWriters : Obligations.MemoryWriters := by
  refine ⟨fun i s t a h hchanged => ?_, fun op s t a h hchanged => ?_⟩
  · have hkeeps := instructionsWriteOnlyTheirItems i s t h .mem
    cases i with
    | ldB x => exact .inl ⟨x, rfl, (execLdB_bytesKept h).inside_of_changed hchanged⟩
    | storeRegs x =>
      obtain ⟨hlow, hhigh⟩ := (execStoreRegs_bytesKept h).inside_of_changed hchanged
      exact .inr ⟨x, rfl, hlow, Nat.le_of_lt_succ hhigh⟩
    | _ => exact absurd (hkeeps (by simp) a) hchanged
  · cases op with
    | reset => exact .inl rfl
    | step rnd => exact .inr (.inl ⟨rnd, rfl⟩)
    | load bytes => cases h; exact .inr (.inr ⟨⟨bytes, rfl⟩, loadOp_changed hchanged⟩)
    | tick => cases h; exact absurd (by rw [tickOp_mem]) hchanged
    | key k => cases h; exact absurd (by rw [keyOp_mem]) hchanged

end Sys2Proof.Machine
end

section
/-! SUPPORT. The display (43_display.md R200 to R205): a drawing through the sprite's own geometry `SpriteOne`, and the two ways
`DRW` can end. -/

namespace Sys2Proof.Machine

variable {p : Display} {cx cy : Byte} {bs : List Byte} {c : Fin 64} {r : Fin 32} {x y : Reg} {n : Nat} {s : State}

/-- Settles O32: `CLS` is one write to the display. -/
theorem clearUnsetsEveryPixel : Obligations.ClearUnsetsEveryPixel :=
  ⟨encodedAs_encode rfl, fun s => ⟨_, rfl, pixel_clearDisplay, (KeepsAllBut.refl _ s).setPx (by simp) _⟩⟩

/-! ### The compositor over the sprite's 1 bits (R203, R204) -/

/-- A 1 bit of the sprite `bs` drawn at `(cx, cy)` lies over the pixel `(c, r)`. -/
abbrev ListOne (bs : List Byte) (cx cy : Byte) : Fin 64 → Fin 32 → Prop :=
  SpriteOne (fun row => bs[row]?.getD 0#8) bs.length cx.toNat cy.toNat

/-- A pixel the compositor touches with a 1 is one that a 1 bit lies over. -/
theorem mem_touches_iff_listOne :
    ((c, r), true) ∈ touches cx.toNat cy.toNat 0 bs ↔ ListOne bs cx cy c r := by
  rw [mem_touches]
  constructor
  · rintro ⟨row, bit, hrow, hbit, hc, hr, hone⟩
    exact ⟨row, bit, hrow, hbit, hone, hc, hr⟩
  · rintro ⟨row, bit, hrow, hbit, hone, hc, hr⟩
    exact ⟨row, bit, hrow, hbit, hc, hr, hone⟩

theorem pixel_drawSprite_of_one (h : bs.length ≤ 32) (hone : ListOne bs cx cy c r) :
    pixel (drawSprite p cx cy bs).1 c r = !pixel p c r := by
  obtain ⟨htoggled, -, -⟩ := drawSprite_spec p cx cy bs h
  exact htoggled c r (mem_touches_iff_listOne.mpr hone)

theorem pixel_drawSprite_of_not_one (h : bs.length ≤ 32) (hone : ¬ ListOne bs cx cy c r) :
    pixel (drawSprite p cx cy bs).1 c r = pixel p c r := by
  obtain ⟨-, hkept, -⟩ := drawSprite_spec p cx cy bs h
  exact hkept c r (mt mem_touches_iff_listOne.mp hone)

theorem drawSprite_collides_iff (h : bs.length ≤ 32) :
    (drawSprite p cx cy bs).2 = true ↔ ∃ c r, ListOne bs cx cy c r ∧ pixel p c r = true := by
  obtain ⟨-, -, hcoll⟩ := drawSprite_spec p cx cy bs h
  simpa only [mem_touches_iff_listOne] using hcoll

/-- R205: each pixel is toggled by both draws or by neither. -/
theorem drawSprite_drawSprite (h : bs.length ≤ 32) : (drawSprite (drawSprite p cx cy bs).1 cx cy bs).1 = p := by
  apply display_ext
  intro c r
  by_cases hone : ListOne bs cx cy c r
  · rw [pixel_drawSprite_of_one h hone, pixel_drawSprite_of_one h hone, Bool.not_not]
  · rw [pixel_drawSprite_of_not_one h hone, pixel_drawSprite_of_not_one h hone]

/-- R205: under a 1 bit, what is set for the second draw is what was unset for the first. -/
theorem drawSprite_again_collides_iff (h : bs.length ≤ 32) :
    (drawSprite (drawSprite p cx cy bs).1 cx cy bs).2 = true ↔
      ∃ c r, ListOne bs cx cy c r ∧ pixel p c r = false := by
  rw [drawSprite_collides_iff h]
  refine exists₂_congr fun c r => and_congr_right fun hone => ?_
  rw [pixel_drawSprite_of_one h hone, Bool.not_eq_true']

/-- Settles O34: a toggle is its own inverse, and it turns the pixels under the 1 bits over for the second draw. -/
theorem doubleDrawRestoresTheDisplay : Obligations.DoubleDrawRestoresTheDisplay := by
  intro p cx cy bs hlength
  have h : bs.length ≤ 32 := by omega
  refine ⟨drawSprite_drawSprite h, fun one hone => ?_⟩
  subst hone
  exact ⟨drawSprite_collides_iff h, drawSprite_again_collides_iff h⟩

/-! ### `DRW` (R202) -/

/-- The bytes `DRW` reads are those at `base .. base+n-1`. -/
theorem listOne_readList (m : Memory) (base n : Nat) (cx cy : Byte) :
    ListOne (m.readList base n) cx cy = SpriteOne (fun row => m.read (base + row)) n cx.toNat cy.toNat := by
  have hbyte {row : Nat} (hrow : row < n) : (m.readList base n)[row]?.getD 0#8 = m.read (base + row) := by
    rw [List.getElem?_eq_getElem (by simpa using hrow), Option.getD_some, m.readList_getElem base n row hrow]
  funext c r
  rw [ListOne, SpriteOne, SpriteOne, Memory.readList_length]
  refine propext (exists₂_congr fun row bit => and_congr_right fun hrow => ?_)
  rw [hbyte hrow]

/-- The drawing of `DRW Vx, Vy, n`: the display and the collision. -/
def State.drawn (s : State) (x y : Reg) (n : Nat) : Display × Bool :=
  drawSprite s.px (s.reg x) (s.reg y) (s.mem.readList s.base n)

theorem execDrw_ok (h : n = 0 ∨ s.base + n - 1 ≤ 4095) :
    execDrw x y n s = .next ((s.setPx (s.drawn x y n).1).setReg vfIndex (collisionFlag (s.drawn x y n).2)) := by
  rw [execDrw, s.readBytes_ok (by omega)]
  rfl

theorem execDrw_error (hpos : 0 < n) (h : 4095 < s.base + n - 1) :
    execDrw x y n s = .next (s.raise (.memoryBoundsError (BitVec.ofNat 16 (max s.base 4096)))) := by
  rw [execDrw, s.readBytes_error hpos (by omega)]

/-- Settles O33: the drawing is the compositor's over the bytes read, and `VF` is written last, from its collision. -/
theorem drawTogglesSpriteAndReportsCollision : Obligations.DrawTogglesSpriteAndReportsCollision := by
  intro x y n s hn
  refine ⟨encodedAs_encode (decide_eq_true (Nat.lt_succ_of_le hn)), fun hfits => ?_,
    fun ⟨hpos, hout⟩ => execDrw_error hpos hout⟩
  have hlength : (s.mem.readList s.base n).length ≤ 32 := by rw [Memory.readList_length]; omega
  refine ⟨_, execDrw_ok hfits, fun one hone => ?_, fun r hr => State.setReg_reg_ne _ _ hr,
    ((KeepsAllBut.refl _ s).setPx (by simp) _).setReg (by simp) _ _⟩
  have hlist := listOne_readList s.mem s.base n (s.reg x) (s.reg y)
  obtain rfl : one = ListOne (s.mem.readList s.base n) (s.reg x) (s.reg y) := hone.trans hlist.symm
  have hcoll : (s.drawn x y n).2 = true ↔ _ := drawSprite_collides_iff hlength
  have hvf : ((s.setPx (s.drawn x y n).1).setReg vfIndex (collisionFlag (s.drawn x y n).2)).reg 15#4 =
      flagByte (s.drawn x y n).2 := State.setReg_reg_same ..
  refine ⟨fun c r => pixel_drawSprite_of_one hlength, fun c r => pixel_drawSprite_of_not_one hlength,
    fun hset => ?_, fun hset => ?_⟩
  · rw [hvf, hcoll.mpr hset]
    rfl
  · rw [hvf, Bool.eq_false_iff.mpr (mt hcoll.mp hset)]
    rfl

end Sys2Proof.Machine
end

section
/-! SUPPORT. Timers and keypad (44_timers_keypad.md R220 to R236): what a step can end in, said once (40_step_and_control.md
R120); which operations leave the keys alone (R230); the instructions over the timers and the keys; `tick` and `key`; and the
inverse of the symbol table. -/

namespace Sys2Proof.Machine

variable {w : List Item} {s t : State}

/-! ### What the start of a step, the latch and a press keep (R43) -/

theorem KeepsAllBut.start (h : KeepsAllBut w s t) (hw : .started ∈ w) : KeepsAllBut w s t.start := by
  intro item hitem
  cases item with
  | started => exact absurd hw hitem
  | _ => exact h _ hitem

theorem KeepsAllBut.setLatch (h : KeepsAllBut w s t) (hw : .latch ∈ w) (k : Option Key) :
    KeepsAllBut w s (t.setLatch k) := by
  intro item hitem
  cases item with
  | latch => exact absurd hw hitem
  | _ => exact h _ hitem

theorem KeepsAllBut.press (h : KeepsAllBut w s t) (hkey : .key ∈ w) (hlatch : .latch ∈ w) (k : Key) :
    KeepsAllBut w s (t.press k) := by
  intro item hitem
  cases item with
  | key => exact absurd hkey hitem
  | latch => exact absurd hlatch hitem
  | _ => exact h _ hitem

/-! ### What a step can end in (R120 to R123) -/

theorem execWord_cases {word : Word} (h : execWord word s = .next t) :
    (∃ f, t = s.raise f) ∨ ∃ i, exec i s = .next t := by
  cases hdecode : decode word with
  | error e =>
    rw [execWord_error s hdecode] at h
    cases h
    exact .inl ⟨_, rfl⟩
  | ok i =>
    rw [execWord_ok s hdecode] at h
    exact .inr ⟨i, h⟩

/-- HALTED, KEYWAIT, or in RUN: the fetch raises, the decoder raises, or an instruction executes. -/
theorem stepOp_cases {rnd : Byte} (h : stepOp rnd s = .next t) :
    (Halted s ∧ t = s) ∨
    (∃ x, KeyWaiting s x ∧ t = s.start.resolveWait x) ∨
    (Running s ∧
      ((∃ f, t = (s.start.takeDraw rnd).raise f) ∨
       (∃ f, t = (s.start.takeDraw rnd).advancePc.raise f) ∨
       ∃ i, exec i (s.start.takeDraw rnd).advancePc = .next t)) := by
  by_cases herr : s.err = .noError
  · cases hwait : s.wait with
    | some x =>
      rw [stepOp_waiting rnd s x herr hwait] at h
      cases h
      exact .inr (.inl ⟨x, ⟨herr, hwait⟩, rfl⟩)
    | none =>
      refine .inr (.inr ⟨⟨herr, hwait⟩, ?_⟩)
      rw [stepOp_running rnd s herr hwait] at h
      obtain ⟨-, hrun⟩ | ⟨-, hrun⟩ := runInstr_cases (s.start.takeDraw rnd) <;> rw [hrun] at h
      · cases h
        exact .inl ⟨_, rfl⟩
      · exact .inr (execWord_cases h)
  · rw [stepOp_halted rnd s herr] at h
    cases h
    exact .inl ⟨herr, rfl⟩

/-! ### Only a press and `reset` write the keys (R228, R230) -/

@[simp] theorem State.resolveWait_key (s : State) (x : Reg) : (s.resolveWait x).key = s.key := by
  cases hlatch : s.latch with
  | none => rw [s.resolveWait_none x hlatch]
  | some k => rw [s.resolveWait_some x hlatch]; rfl

theorem exec_keeps_key {i : Instr} (h : exec i s = .next t) : t.key = s.key := by
  refine instructionsWriteOnlyTheirItems i s t h .key ?_
  cases i with
  | storeRegs x => cases s.cfg.storeZeroesRegs <;> simp
  | _ => simp

theorem stepOp_keeps_key {rnd : Byte} (h : stepOp rnd s = .next t) : t.key = s.key := by
  obtain ⟨-, rfl⟩ | ⟨x, -, rfl⟩ | ⟨-, ⟨f, rfl⟩ | ⟨f, rfl⟩ | ⟨i, hexec⟩⟩ := stepOp_cases h
  · rfl
  · exact s.start.resolveWait_key x
  · rfl
  · rfl
  · rw [exec_keeps_key hexec]; rfl

@[simp] theorem loadOp_key (bytes : List Byte) (s : State) : (loadOp bytes s).key = s.key := by
  obtain h | ⟨-, h⟩ | ⟨-, h⟩ := loadOp_cases bytes s <;> rw [h] <;> rfl

@[simp] theorem tickOp_key (s : State) : (tickOp s).key = s.key := by
  by_cases herr : s.err = .noError
  · rw [tickOp_running herr]; rfl
  · rw [tickOp_halted s herr]

theorem onlyKey_iff (k : Key) (j : Fin 16) : (onlyKey k)[j] = true ↔ j.val = k.toNat := by
  simp [onlyKey_getElem]

theorem keyOp_keeps_keyDown {k : Key} (h : s.key[k.toFin] = true) : (keyOp k s).key[k.toFin] = true := by
  by_cases herr : s.err = .noError
  · rw [keyOp_running k herr]
    exact (onlyKey_iff k k.toFin).mpr rfl
  · rwa [keyOp_halted k s herr]

/-- Without a reset, a key that is down can go up only by the press of another key. -/
theorem perform_keeps_keyDown {op : DriverOp} {k : Key} (hreset : op ≠ .reset) (hpress : ∀ j, op = .key j → j = k)
    (h : perform op s = .next t) (hdown : s.key[k.toFin] = true) : t.key[k.toFin] = true := by
  cases op with
  | reset => exact absurd rfl hreset
  | load bytes => cases h; rwa [loadOp_key]
  | tick => cases h; rwa [tickOp_key]
  | key j =>
    cases h
    obtain rfl := hpress j rfl
    exact keyOp_keeps_keyDown hdown
  | step rnd => rwa [stepOp_keeps_key h]

/-- Settles O59: each operation of such a sequence keeps the key down. -/
theorem pressedKeyStaysDown : Obligations.PressedKeyStaysDown :=
  fun _ _ _ _ hrun hdown hreset hpress =>
    runOps_invariant
      (fun _ hop _ _ => perform_keeps_keyDown (ne_of_mem_of_not_mem hop hreset) fun j e => hpress j (e ▸ hop))
      hrun hdown

/-! ### The key wait (R226, R227) -/

/-- Settles O37: the instruction writes `WAIT` alone. -/
theorem keyWaitRecordsTheMarker : Obligations.KeyWaitRecordsTheMarker :=
  fun x s => ⟨encodedAs_encode rfl, _, rfl, rfl, (KeepsAllBut.refl _ s).setWait (by simp) (some x)⟩

theorem keyCode_toNat (k : Key) : (k.setWidth 8).toNat = k.toNat := BitVec.toNat_setWidth_of_le (by decide)

/-- Settles O10: the step is the resolution after the start, in either state of the latch. -/
theorem keyWaitResolvesFromTheLatch : Obligations.KeyWaitResolvesFromTheLatch := by
  rintro s x rnd ⟨herr, hwait⟩
  have hstep := stepOp_waiting rnd s x herr hwait
  refine ⟨fun k hlatch => ?_, fun hlatch => ?_⟩
  · rw [s.start.resolveWait_some x hlatch] at hstep
    refine ⟨_, hstep, ?_, rfl, rfl, rfl, fun r hr => ?_, ?_⟩
    · rw [State.setWait_reg, State.setLatch_reg, State.setReg_reg_same, keyCode_toNat]
    · exact s.start.setReg_reg_ne _ hr
    · have hwritten := ((KeepsAllBut.refl [.v, .latch, .wait, .started] s).start (by simp)).setReg (by simp) x (k.setWidth 8)
      exact (hwritten.setLatch (by simp) none).setWait (by simp) none
  · rw [hstep, s.start.resolveWait_none x hlatch]
    rfl

/-! ### The skips on a key (R223 to R225) -/

theorem State.keyDown_of_eq (s : State) {b : Byte} {k : Fin 16} (h : b.toNat = k.val) : s.keyDown b = s.key[k] := by
  rw [s.keyDown_of_lt (h ▸ k.isLt)]
  simp [h]

/-- Settles O17: both skips test `KeyDown` of the whole register value, `SKNP` for its negation. -/
theorem keySkips : Obligations.KeySkips := by
  intro x s
  have hkeeps (p : Bool) : KeepsAllBut [.pc] s (s.skipIf p) := (KeepsAllBut.refl _ s).skipIf (by simp) p
  refine ⟨encodedAs_encode rfl, encodedAs_encode rfl,
    ⟨_, rfl, hkeeps _, fun k hk => ?_, fun hk => ?_⟩, ⟨_, rfl, hkeeps _, fun k hk => ?_, fun hk => ?_⟩⟩
  · rw [State.skipIf_pc, s.keyDown_of_eq hk]
  · rw [s.keyDown_of_ge hk]; rfl
  · rw [State.skipIf_pc, s.keyDown_of_eq hk]
    cases s.key[k] <;> rfl
  · rw [s.keyDown_of_ge hk]; rfl

/-! ### The timers (R220 to R222, R231) -/

/-- Settles O35: the delay timer is read into one register. -/
theorem readDelayTimer : Obligations.ReadDelayTimer :=
  fun x s => ⟨encodedAs_encode rfl, setReg_sets_value s x s.dt⟩

/-- Settles O36: either instruction is one timer write. -/
theorem setTimers : Obligations.SetTimers :=
  fun x s => ⟨⟨encodedAs_encode rfl, _, rfl, rfl, (KeepsAllBut.refl _ s).setDt (by simp) (s.reg x)⟩,
    encodedAs_encode rfl, _, rfl, rfl, (KeepsAllBut.refl _ s).setSt (by simp) (s.reg x)⟩

/-- Settles O38: on a core with no error `tick` is two decrements, whatever `WAIT` holds. -/
theorem tickDecrementsBothTimers : Obligations.TickDecrementsBothTimers := by
  refine fun s => ⟨tickOp s, rfl, fun herr => ?_, tickOp_halted s⟩
  rw [tickOp_running herr]
  exact ⟨decrement_toNat s.dt, decrement_toNat s.st, ((KeepsAllBut.refl _ s).setDt (by simp) _).setSt (by simp) _⟩

/-! ### A press (R228) -/

/-- Settles O39: on a core with no error `key` is a press, whatever `WAIT` holds. -/
theorem keyPressIsExclusiveAndLatched : Obligations.KeyPressIsExclusiveAndLatched := by
  refine fun s k => ⟨keyOp k s, rfl, fun herr => ?_, keyOp_halted k s⟩
  rw [keyOp_running k herr]
  exact ⟨onlyKey_iff k, rfl, (KeepsAllBut.refl _ s).press (by simp) (by simp) k⟩

/-! ### The symbol table (R236) -/

/-- The table of R236 read by key code: the symbols of the keys 0 to F. -/
def symbolsByKey : Vector Byte 16 :=
  #v[0x78, 0x31, 0x32, 0x33, 0x71, 0x77, 0x65, 0x61, 0x73, 0x64, 0x7A, 0x63, 0x34, 0x72, 0x66, 0x76]

/-- The symbol of a key, the inverse of `keyOfSymbol`. -/
def symbolOfKey (k : Key) : Byte := symbolsByKey[k.toNat]'k.isLt

theorem keyOfSymbol_symbolOfKey (k : Key) : keyOfSymbol (symbolOfKey k) = some k := by
  decide +revert

/-- One row of the table: the symbol of its key is its byte, or the answer is in the rows below. -/
theorem eq_symbolOfKey_of_row {b c : Byte} {j k : Key} {below : Option Key} (hrow : symbolOfKey j = c)
    (hbelow : below = some k → b = symbolOfKey k) (h : (if b = c then some j else below) = some k) :
    b = symbolOfKey k := by
  split at h
  next hb =>
    cases h
    exact hb.trans hrow.symm
  next => exact hbelow h

theorem eq_symbolOfKey {b : Byte} {k : Key} : keyOfSymbol b = some k → b = symbolOfKey k := by
  unfold keyOfSymbol
  iterate 16 refine eq_symbolOfKey_of_row rfl ?_
  exact nofun

theorem symbolEvent_mapped {b : Byte} {k : Key} (s : State) (h : keyOfSymbol b = some k) :
    symbolEvent b s = keyOp k s := by
  rw [symbolEvent, h, keyEvent]

theorem symbolEvent_unmapped {b : Byte} (s : State) (h : keyOfSymbol b = none) : symbolEvent b s = s := by
  rw [symbolEvent, h, keyEvent]

/-- Settles O46: the table has an inverse on the sixteen codes. -/
theorem symbolTableCoversEachKeyOnce : Obligations.SymbolTableCoversEachKeyOnce :=
  ⟨by decide, fun k => ⟨symbolOfKey k, keyOfSymbol_symbolOfKey k, fun _ => eq_symbolOfKey⟩,
    fun _ s => ⟨fun _ => symbolEvent_mapped s, symbolEvent_unmapped s⟩⟩

end Sys2Proof.Machine
end

section
/-! SUPPORT. The driver's operations (45_host_operations.md R250 to R259): what a halted core does with each of them, the ways a
`load` can end, what a logical cycle does before its step, and a sampling of the port binding as a sequence of operations. -/

namespace Sys2Proof.Machine

variable {w : List Item} {s t : State}

/-! ### A halted core (R258, R286) -/

theorem perform_halted {op : DriverOp} (h : Halted s) (hreset : op ≠ .reset) : perform op s = .next s := by
  cases op with
  | reset => exact absurd rfl hreset
  | load bytes => exact congrArg Host.Outcome.next (loadOp_halted bytes s h)
  | tick => exact congrArg Host.Outcome.next (tickOp_halted s h)
  | key k => exact congrArg Host.Outcome.next (keyOp_halted k s h)
  | step rnd => exact stepOp_halted rnd s h

theorem runOps_halted {ops : List DriverOp} (h : Halted s) (hreset : .reset ∉ ops) : runOps ops s = .next s := by
  induction ops with
  | nil => rfl
  | cons op ops ih =>
    have hop : perform op s = .next s := perform_halted h (List.ne_of_not_mem_cons hreset).symm
    exact runOps_cons_next.mpr ⟨s, hop, ih (List.not_mem_of_not_mem_cons hreset)⟩

/-- Settles O9: each operation leaves a halted core as it is, and the model's step is one of them. -/
theorem haltedIgnoresAllButReset : Obligations.HaltedIgnoresAllButReset :=
  fun s _ h hreset => ⟨runOps_halted h hreset, stepOp_halted _ s h⟩

/-! ### `load` (R252) -/

theorem loadOp_tooLong {bytes : List Byte} (h : s.err = .noError) (hs : s.started = false) (hl : bytes.length > 3584) :
    loadOp bytes s = Raised s .memoryBoundsError 4096#16 := by
  rw [loadOp, if_neg (by simp [h, hs]), if_pos hl]
  rfl

/-- Settles O40: the ignored load, the raise, and the write of a program that fits. -/
theorem loadPlacesTheProgram : Obligations.LoadPlacesTheProgram := by
  refine fun s bytes => ⟨fun hignored => ?_, fun herr hfresh hlong => ?_, fun herr hfresh hfits => ?_⟩
  · obtain hhalted | hstarted := hignored
    · exact perform_halted hhalted nofun
    · exact congrArg Host.Outcome.next (loadOp_started bytes s hstarted)
  · exact congrArg Host.Outcome.next (loadOp_tooLong herr hfresh hlong)
  · exact ⟨_, congrArg Host.Outcome.next (loadOp_ok herr hfresh hfits), fun _ => s.mem.read_writeList_at 512,
      bytesKeptOutside_writeList s 512 bytes, (KeepsAllBut.refl _ s).setMem (by simp) (Memory.writeList_font ..)⟩

/-! ### The logical cycle (R257) -/

theorem KeepsAllBut.tickOp (h : KeepsAllBut w s t) (hdt : .dt ∈ w) (hst : .st ∈ w) :
    KeepsAllBut w s (tickOp t) := by
  by_cases herr : t.err = .noError
  · rw [tickOp_running herr]; exact (h.setDt hdt _).setSt hst _
  · rwa [tickOp_halted t herr]

theorem KeepsAllBut.keyEvent (h : KeepsAllBut w s t) (hkey : .key ∈ w) (hlatch : .latch ∈ w) (event : Option Key) :
    KeepsAllBut w s (keyEvent event t) := by
  cases event with
  | none => exact h
  | some k =>
    by_cases herr : t.err = .noError
    · rw [Machine.keyEvent, keyOp_running k herr]; exact h.press hkey hlatch k
    · rwa [Machine.keyEvent, keyOp_halted k t herr]

/-- What comes before the step of a cycle writes the timers, the keys and the latch only. -/
theorem tick_then_key_keeps (event : Option Key) (s : State) :
    KeepsAllBut [.dt, .st, .key, .latch] s (keyEvent event (tickOp s)) :=
  ((KeepsAllBut.refl _ s).tickOp (by simp) (by simp)).keyEvent (by simp) (by simp) event

/-- The step of a cycle finds the delay timer decremented. -/
theorem tick_then_key_dt (event : Option Key) (herr : s.err = .noError) :
    (keyEvent event (tickOp s)).dt.toNat = s.dt.toNat - 1 := by
  have hkept : (keyEvent event (tickOp s)).dt = (tickOp s).dt :=
    (KeepsAllBut.refl [.key, .latch] _).keyEvent (by simp) (by simp) event .dt (by simp)
  rw [hkept, tickOp_running herr, State.setSt_dt, State.setDt_dt, decrement_toNat]

theorem KeepsAllBut.wordAtPc_eq (h : KeepsAllBut w s t) (hmem : .mem ∉ w) (hpc : .pc ∉ w) :
    WordAtPc t = WordAtPc s := by
  have hread : ∀ a, t.mem.read a = s.mem.read a := h .mem hmem
  rw [WordAtPc, h .pc hpc, hread, hread, WordAtPc]

/-- The key of the cycle resolves the wait: the step finds it latched. -/
theorem logicalCycle_resolves {x : Reg} (k : Key) (rnd : Byte) (h : KeyWaiting s x) :
    ∃ t, logicalCycle (some k) rnd s = .next t ∧
      (t.reg x).toNat = k.toNat ∧ t.wait = none ∧ t.latch = none ∧ t.dt.toNat = s.dt.toNat - 1 := by
  obtain ⟨herr, hwait⟩ := h
  have hkept := tick_then_key_keeps (some k) s
  have herr' : (tickOp s).err = .noError := by rw [tickOp_running herr]; exact herr
  have hlatch : (keyEvent (some k) (tickOp s)).latch = some k := by rw [keyEvent, keyOp_running k herr']; rfl
  have hwaiting : KeyWaiting (keyEvent (some k) (tickOp s)) x :=
    ⟨(hkept .err (by simp)).trans herr, (hkept .wait (by simp)).trans hwait⟩
  obtain ⟨t, hstep, hreg, hlatch', hwait', -, -, hframe⟩ := (keyWaitResolvesFromTheLatch _ x rnd hwaiting).1 k hlatch
  have hdt : t.dt = (keyEvent (some k) (tickOp s)).dt := hframe .dt (by simp)
  exact ⟨t, hstep, hreg, hwait', hlatch', hdt ▸ tick_then_key_dt (some k) herr⟩

/-- `LD Vx, DT` executed in a cycle reads the timer after the tick of the cycle. -/
theorem logicalCycle_reads_ticked_timer {x : Reg} (event : Option Key) (rnd : Byte) (h : Running s)
    (hpc : s.pc.toNat ≤ 4094) (hword : WordAtPc s = 0xF#4 ++ x ++ 0x07#8) :
    ∃ t, logicalCycle event rnd s = .next t ∧ (t.reg x).toNat = s.dt.toNat - 1 := by
  obtain ⟨herr, hwait⟩ := h
  have hkept := tick_then_key_keeps event s
  have hrunning : Running (keyEvent event (tickOp s)) :=
    ⟨(hkept .err (by simp)).trans herr, (hkept .wait (by simp)).trans hwait⟩
  have hpc' : (keyEvent event (tickOp s)).pc = s.pc := hkept .pc (by simp)
  obtain ⟨⟨-, hdecode⟩, t, hexec, hreg, -⟩ := readDelayTimer x
    { StepBegun rnd (keyEvent event (tickOp s)) with pc := (keyEvent event (tickOp s)).pc + 2#16 }
  rw [← hword, ← hkept.wordAtPc_eq (by simp) (by simp)] at hdecode
  refine ⟨t, (stepOp_executes rnd hrunning (hpc' ▸ hpc) hdecode).trans hexec, ?_⟩
  rw [hreg]
  exact tick_then_key_dt event herr

/-- Settles O43: a pending wait and an `LD Vx, DT` each see what the tick and the key of their own cycle left. -/
theorem logicalCycleOrder : Obligations.LogicalCycleOrder :=
  fun _ _ rnd => ⟨fun k => logicalCycle_resolves k rnd, fun event => logicalCycle_reads_ticked_timer event rnd⟩

/-! ### The port binding (R259) -/

/-- A sequence that goes on after its first part has ended in a next state. -/
theorem runOps_append {first rest : List DriverOp} (h : runOps first s = .next t) :
    runOps (first ++ rest) s = runOps rest t := by
  induction first generalizing s with
  | nil => cases h; rfl
  | cons op ops ih =>
    obtain ⟨u, hop, hops⟩ := runOps_cons_next.mp h
    rw [List.cons_append, runOps, hop]
    exact ih hops

theorem withStraps_of_unchanged {p : PortIn} (h : s.cfg = ⟨p.cfgShiftSrcVy, p.cfgStoreZeroesRegs⟩) :
    s.withStraps p = s := by
  rw [State.withStraps, ← h]

theorem portLoadAt_of_not_loadWe {p : PortIn} (slot : Fin 4) (s : State) (h : p.loadWe = false) :
    portLoadAt slot p s = s := by
  simp [portLoadAt, h]

/-- Without a load strobe the requests before the step are a tick and then a key. -/
theorem runOps_tick_key {p : PortIn} (s : State) (h : p.loadWe = false) :
    runOps ((if p.tickReq then [.tick] else []) ++ (if p.keyValid then [.key p.keyCode] else [])) s =
      .next (portBeforeStep p s) := by
  simp only [portBeforeStep, portLoadAt_of_not_loadWe _ _ h]
  cases p.tickReq <;> cases p.keyValid <;> rfl

/-- Without a load strobe the last request is the step, if it is made. -/
theorem portCycle_of_not_rst {p : PortIn} (s : State) (hrst : p.rst = false) (h : p.loadWe = false) :
    portCycle p s =
      runOps (if p.stepReq then [.step p.rnd] else []) (portBeforeStep p (s.withStraps p)) := by
  simp only [portCycle, hrst, portLoadAt_of_not_loadWe _ _ h]
  cases p.stepReq <;> rfl

/-- Settles O44: the sequence runs the tick and the key to the state before the step, where the port's step starts. -/
theorem portCycleServesTickKeyStep : Obligations.PortCycleServesTickKeyStep := by
  intro p s hrst hload hstraps
  rw [portCycle_of_not_rst s hrst hload, withStraps_of_unchanged hstraps, runOps_append (runOps_tick_key s hload)]

/-! ### The outputs (R256) -/

theorem outputs_halted_iff (s : State) : s.outputs.halted = true ↔ s.err ≠ .noError := decide_eq_true_iff

theorem outputs_errCode {e : Err} (h : s.err = e) : s.outputs.errCode = e.code := congrArg Err.code h

theorem outputs_of_wait_some {x : Reg} (h : s.wait = some x) : s.outputs.keyWait = true ∧ s.outputs.keyWaitReg = x := by
  simp [State.outputs, h]

theorem outputs_of_wait_none (h : s.wait = none) : s.outputs.keyWait = false ∧ s.outputs.keyWaitReg = 0#4 := by
  simp [State.outputs, h]

/-- Settles O45: the timers, `ERR_INFO` and the pixels are read out as they are. -/
theorem outputsShowTheLatches : Obligations.OutputsShowTheLatches :=
  fun s => ⟨outputs_halted_iff s, outputs_errCode, outputs_errCode, outputs_errCode, outputs_errCode, outputs_errCode,
    fun _ => outputs_of_wait_some, outputs_of_wait_none, rfl, rfl, rfl, fun _ _ => rfl⟩

end Sys2Proof.Machine
end

section
/-! SUPPORT. Exceptions (60_exceptions.md): the instructions that can raise and their conditions (R283, R284), the step of a core
that no program was loaded into (R282), and a key wait that no key ends (R300). -/

namespace Sys2Proof.Machine

variable {s t : State}

/-! ### Who writes the error latch (R283 to R288) -/

/-- The error latch (R35): `ERR` and its payload. -/
def State.errorLatch (s : State) : Err × Word := (s.err, s.errInfo)

theorem errorLatch_ne_iff : t.errorLatch ≠ s.errorLatch ↔ t.err ≠ s.err ∨ t.errInfo ≠ s.errInfo := by
  rw [Ne, State.errorLatch, State.errorLatch, Prod.mk.injEq, not_and_or]

@[simp] theorem State.skipIf_errorLatch (s : State) (p : Bool) : (s.skipIf p).errorLatch = s.errorLatch := by
  cases p <;> rfl

@[simp] theorem State.setRegsUpTo_errorLatch (s : State) (x : Reg) (f : Nat → Byte) :
    (s.setRegsUpTo x f).errorLatch = s.errorLatch :=
  State.setRegsUpTo_keeps State.errorLatch (fun _ _ _ => rfl) s x f

@[simp] theorem State.zeroStored_errorLatch (s : State) (x : Reg) : (s.zeroStored x).errorLatch = s.errorLatch :=
  s.zeroStored_keeps State.errorLatch (fun _ _ _ => rfl) x

/-- An instruction that raises `f` under its condition and otherwise keeps the latch changes it only by that raise. -/
theorem raised_of_errorLatch_ne {cond : Prop} {r : Result} {f : Fatal} (h : r = .next t)
    (hlatch : t.errorLatch ≠ s.errorLatch) (hraises : cond → r = .next (s.raise f))
    (hkeeps : ¬ cond → ∃ u, r = .next u ∧ u.errorLatch = s.errorLatch) : cond ∧ t = s.raise f := by
  by_cases hcond : cond
  · cases (hraises hcond).symm.trans h
    exact ⟨hcond, rfl⟩
  · obtain ⟨u, hu, hkept⟩ := hkeeps hcond
    cases hu.symm.trans h
    exact absurd hkept hlatch

theorem exec_ret_raised (h : exec .ret s = .next t) (hlatch : t.errorLatch ≠ s.errorLatch) :
    s.sp.val = 0 ∧ t = s.raise .stackUnderflow := by
  refine raised_of_errorLatch_ne h hlatch exec_ret_empty fun hsome => ?_
  obtain ⟨slot, hslot⟩ := Fin.exists_succ_eq.mpr fun hzero => hsome (congrArg Fin.val hzero)
  exact ⟨_, exec_ret_slot hslot.symm, rfl⟩

theorem exec_call_raised {nnn : Addr} (h : exec (.call nnn) s = .next t) (hlatch : t.errorLatch ≠ s.errorLatch) :
    s.sp.val = 16 ∧ t = s.raise (.stackOverflow s.pc) := by
  refine raised_of_errorLatch_ne h hlatch (exec_call_full nnn) fun hroom => ?_
  obtain ⟨slot, hslot⟩ := Fin.exists_castSucc_eq.mpr fun hlast => hroom (congrArg Fin.val hlast)
  exact ⟨_, exec_call_slot nnn hslot.symm, rfl⟩

theorem execLdB_raised {x : Reg} (h : execLdB x s = .next t) (hlatch : t.errorLatch ≠ s.errorLatch) :
    4095 < s.base + 2 ∧ t = s.raise (.memoryBoundsError (BitVec.ofNat 16 (max s.base 4096))) :=
  raised_of_errorLatch_ne h hlatch execLdB_error fun hfits => ⟨_, execLdB_ok (Nat.le_of_not_lt hfits), rfl⟩

theorem execStoreRegs_raised {x : Reg} (h : execStoreRegs x s = .next t) (hlatch : t.errorLatch ≠ s.errorLatch) :
    4095 < s.base + x.toNat ∧ t = s.raise (.memoryBoundsError (BitVec.ofNat 16 (max s.base 4096))) :=
  raised_of_errorLatch_ne h hlatch execStoreRegs_error fun hfits =>
    ⟨_, execStoreRegs_ok (Nat.le_of_not_lt hfits), State.zeroStored_errorLatch _ x⟩

theorem execLoadRegs_raised {x : Reg} (h : execLoadRegs x s = .next t) (hlatch : t.errorLatch ≠ s.errorLatch) :
    4095 < s.base + x.toNat ∧ t = s.raise (.memoryBoundsError (BitVec.ofNat 16 (max s.base 4096))) :=
  raised_of_errorLatch_ne h hlatch execLoadRegs_error fun hfits =>
    ⟨_, execLoadRegs_ok (Nat.le_of_not_lt hfits), State.setRegsUpTo_errorLatch s x _⟩

theorem execDrw_raised {x y : Reg} {n : Nat} (h : execDrw x y n s = .next t) (hlatch : t.errorLatch ≠ s.errorLatch) :
    (0 < n ∧ 4095 < s.base + n - 1) ∧ t = s.raise (.memoryBoundsError (BitVec.ofNat 16 (max s.base 4096))) :=
  raised_of_errorLatch_ne h hlatch (fun ⟨hpos, hout⟩ => execDrw_error hpos hout) fun hfits =>
    ⟨_, execDrw_ok (by omega), rfl⟩

/-- Settles O51: the six raise under their conditions and otherwise keep the latch; every other instruction keeps it. -/
theorem onlyTheseInstructionsRaise : Obligations.OnlyTheseInstructionsRaise := by
  intro i s t h hchanged
  have hlatch := errorLatch_ne_iff.mpr hchanged
  cases i with
  | call nnn =>
    obtain ⟨hfull, ht⟩ := exec_call_raised h hlatch
    exact .inl ⟨⟨nnn, rfl⟩, hfull, ht⟩
  | ret =>
    obtain ⟨hempty, ht⟩ := exec_ret_raised h hlatch
    exact .inr (.inl ⟨rfl, hempty, ht⟩)
  | ldB x =>
    obtain ⟨hout, ht⟩ := execLdB_raised h hlatch
    exact .inr (.inr ⟨.inl ⟨x, rfl, hout⟩, ht⟩)
  | storeRegs x =>
    obtain ⟨hout, ht⟩ := execStoreRegs_raised h hlatch
    exact .inr (.inr ⟨.inr (.inl ⟨x, rfl, hout⟩), ht⟩)
  | loadRegs x =>
    obtain ⟨hout, ht⟩ := execLoadRegs_raised h hlatch
    exact .inr (.inr ⟨.inr (.inr (.inl ⟨x, rfl, hout⟩)), ht⟩)
  | drw x y n =>
    obtain ⟨⟨hpos, hout⟩, ht⟩ := execDrw_raised h hlatch
    exact .inr (.inr ⟨.inr (.inr (.inr ⟨x, y, n, rfl, hpos, hout⟩)), ht⟩)
  | seImm | sneImm | seReg | sneReg | skp | sknp => cases h; exact absurd (s.skipIf_errorLatch _) hlatch
  | _ => cases h; exact absurd rfl hlatch

/-! ### The key wait (R300) -/

theorem KeepsAllBut.keyWaiting {w : List Item} {x : Reg} (h : KeepsAllBut w s t) (herr : .err ∉ w) (hwait : .wait ∉ w)
    (hs : KeyWaiting s x) : KeyWaiting t x :=
  ⟨(h .err herr).trans hs.1, (h .wait hwait).trans hs.2⟩

/-- A step or a tick of a core that has kept a key wait with an empty latch keeps it once more. -/
theorem perform_keeps_keyWait {op : DriverOp} {u : State} {x : Reg} (hwaiting : KeyWaiting s x) (hempty : s.latch = none)
    (hop : op = .tick ∨ ∃ rnd, op = .step rnd) (h : perform op t = .next u)
    (hkept : KeepsAllBut [.dt, .st, .started] s t) : KeepsAllBut [.dt, .st, .started] s u := by
  obtain rfl | ⟨rnd, rfl⟩ := hop
  · cases h
    exact hkept.tickOp (by simp) (by simp)
  · obtain ⟨herr, hwait⟩ := hkept.keyWaiting (by simp) (by simp) hwaiting
    have hstep := stepOp_waiting rnd t x herr hwait
    rw [t.start.resolveWait_none x ((hkept .latch (by simp)).trans hempty)] at hstep
    cases hstep.symm.trans h
    exact hkept.start (by simp)

/-- Settles O60: the frame is an invariant of the steps and the ticks, and it holds the wait and the empty latch. -/
theorem keyWaitLastsUntilAKey : Obligations.KeyWaitLastsUntilAKey := by
  intro ops s x hwaiting hempty hops
  obtain ⟨t, hrun⟩ := runOps_completes ops s
  have hkept : KeepsAllBut [.dt, .st, .started] s t :=
    runOps_invariant (fun op hop _ _ => perform_keeps_keyWait hwaiting hempty (hops op hop)) hrun (.refl _ s)
  exact ⟨t, hrun, hkept.keyWaiting (by simp) (by simp) hwaiting, (hkept .latch (by simp)).trans hempty, hkept⟩

/-! ### The step after a reset (R282, R322) -/

theorem ResetValues.wordAtPc (h : ResetValues s) : WordAtPc s = 0x0000#16 := by
  rw [WordAtPc, h.pc, h.otherMemory 512 (by omega), h.otherMemory 513 (by omega)]
  rfl

/-- Settles O42: the word at the reset `PC` is 0x0000, which the decoder refuses. -/
theorem bootWithoutProgramHalts : Obligations.BootWithoutProgramHalts := by
  intro s rnd
  obtain ⟨u, hreset, hvalues, -⟩ := resetLeavesResetValues.1 s
  have hword := hvalues.wordAtPc
  have hillegal : IllegalWord (WordAtPc u) := by
    rw [hword]
    exact .inl (by decide)
  have hpc : u.pc = 0x0200#16 := BitVec.eq_of_toNat_eq hvalues.pc
  have hstep := illegalWordRaisesDecodeError u rnd ⟨hvalues.noError.1, hvalues.noWait⟩ (by simp [hpc]) hillegal
  refine ⟨_, runOps_cons_next.mpr ⟨u, hreset, runOps_cons_next.mpr ⟨_, hstep, rfl⟩⟩, rfl, hword, ?_, rfl⟩
  simp [Raised, hpc]

end Sys2Proof.Machine
end
